-- ==== Sys2Proof/Word.lean ====
section
/-! DEFINITION. The word, byte, counter and block types of spec/00_scope.md R10 and R15: a word is an unsigned
32-bit value whose arithmetic wraps modulo 2^32, a block (and the state array) is 16 words. -/

namespace Sys2Proof

/-- "A 32-bit unsigned integer, Salsa20's basic arithmetic unit" (R18). No rule reads a word as signed (R15). -/
abbrev Word := BitVec 32

/-- One byte lane of a word (R62). -/
abbrev Byte := BitVec 8

/-- The 64-bit block counter `CTR` (R35). -/
abbrev Counter := BitVec 64

/-- Sixteen words, 64 bytes: the state array `S`, the output `OUT`, one keystream block (R10, R18). -/
abbrev Block := Vector Word 16

end Sys2Proof
end

