-- ==== Sys2Proof/Config.lean ====
section
/-! DEFINITION. What an implementation fixes (the parameters of spec/00_scope.md R11 to R13, which "a model takes as
an argument") and the one free value of the model (the reads of spec/70_reset_and_hazards.md R241). The parameters
are plain data: a State carries them, so that every statement about a state holds for every implementation (log
entry 1). -/

namespace Sys2Proof.Config

/-- The two values `CTR_MAX` takes (R11): `2^64 - 1` and `2^53 - 1`. -/
inductive CtrMax where
  | full64
  | safe53
  deriving DecidableEq, Repr

/-- The two values `CTR_FIELD_ORDER` takes (R12): most significant byte first, or least significant byte first. -/
inductive FieldOrder where
  | be
  | le
  deriving DecidableEq, Repr

/-- The parameters of one implementation. `KSBUF_BLOCKS` is an integer from 1 to 16 (R13), so one less than it is
held, as a number below 16. -/
structure Params where
  ctrMax : CtrMax
  order : FieldOrder
  blocksLess1 : Fin 16
  deriving DecidableEq, Repr

/-- The defaults of R11, R12 and R13: `CTR_MAX = 2^64 - 1`, `CTR_FIELD_ORDER = BE`, `KSBUF_BLOCKS = 8`. -/
def Params.default : Params := { ctrMax := .full64, order := .be, blocksLess1 := 7 }

/-- FREE VALUE. What a read of a volatile register returns while BUSY = 1: "an unspecified 32-bit value, which a
model takes as a free draw, possibly different on every read" (R241). The argument is the number of the draw. It has
no body, so no proof can know a value of it (log entry 5). -/
opaque freeRead : Nat → Word

end Sys2Proof.Config
end

