-- ==== Sys2Proof/Syntax.lean ====
section
/-! DEFINITION. The commands of the opcode map (spec/30_encoding.md R83), the moves of the two agents
(spec/00_scope.md R19) and the names of the window's registers (spec/20_memory.md R61). -/

namespace Sys2Proof

/-- The thirteen commands of R83. Operands are implicit; only WROTL carries one, the rotation amount `n = IMM5`
(R82). -/
inductive Instr where
  | nop
  | wadd
  | wxor
  | wrotl (n : BitVec 5)
  | qr
  | colrnd
  | rowrnd
  | dblrnd
  | perm10
  | hash
  | expand
  | ksgen
  | clear
  deriving DecidableEq, Repr

/-- The two agents of R19: the host makes one bus access per step, the engine one completion step per accepted
command. -/
inductive Agent where
  | host
  | engine
  deriving DecidableEq, Repr

/-- One move of the host: `MemWrite(off, 4, v)`, `MemRead(off, 4)` (R60), or driving the pin `rst_n` (R230). The
offset is a byte offset of the register window; which offsets are accesses of the port is a check of WellFormed. -/
inductive HostMove where
  | write (off : Nat) (v : Word)
  | read (off : Nat)
  | rst (level : Bool)
  deriving DecidableEq, Repr

/-- What stands at a word of the register window (R61). `reserved` is a RAZ/WI word, the absent KSBUF words among
them. -/
inductive Reg where
  | id
  | cmd
  | status
  | hwcfg
  | ie
  | cfg
  | kslen
  | a
  | b
  | r
  | q (i : Fin 4)
  | s (i : Fin 16)
  | out (i : Fin 16)
  | key (i : Fin 8)
  | nonce (i : Fin 2)
  | ctrLo
  | ctrHi
  | ksbuf (w : Nat)
  | reserved
  deriving DecidableEq, Repr

end Sys2Proof
end

