-- ==== Sys2Proof/WellFormed.lean ====
section
/-! DEFINITION. The checks on what the host presents. Every term of `Instr` is a legal command: the opcode is a
constructor and IMM5 has five bits by type, so "amounts of 32 and above cannot be encoded" (spec/90_conflicts.md C6,
spec/93_implementation_defined.md I8). What can be ill-formed is an offset: spec/20_memory.md R65. -/

namespace Sys2Proof

/-- "A model takes `off` with `off mod 4 = 0` and `0 <= off < 0x800`" (R65): an aligned word of the 2048-byte
window. -/
def offsetOk (off : Nat) : Bool := off % 4 == 0 && off < 0x800

/-- A move of the host that this port can express: an access at a legal offset, or the reset pin. -/
def HostMove.wf : HostMove → Bool
  | .write off _ => offsetOk off
  | .read off => offsetOk off
  | .rst _ => true

/-- R86: "12 words are the non-rotate commands", "32 words are WROTL, one for each `n` from 0 to 31". Each
constructor is one of them for every value of its field, so no term is refused. -/
def Instr.wf : Instr → Bool
  | .nop => true
  | .wadd => true
  | .wxor => true
  | .wrotl n => n.toNat < 32
  | .qr => true
  | .colrnd => true
  | .rowrnd => true
  | .dblrnd => true
  | .perm10 => true
  | .hash => true
  | .expand => true
  | .ksgen => true
  | .clear => true

end Sys2Proof
end

