-- ==== Sys2Proof/Decode.lean ====
section
/-! DEFINITION. The decoder of command words (spec/30_encoding.md R80 to R85), total and rejecting by name, and the
encoder written from the same table (R83, R89). -/

namespace Sys2Proof

/-- Why a word is BADCMD (R81, R84, R85). The hardware records one code for all three. -/
inductive BadCmd where
  | reservedOpcode
  | rsvNonzero
  | imm5Nonzero
  deriving DecidableEq, Repr

/-- "Every 32-bit word decodes to exactly one of two results" (R81): one command, or the verdict BADCMD. -/
inductive Verdict where
  | command (i : Instr)
  | badcmd (why : BadCmd)
  deriving DecidableEq, Repr

/-- `OP`, bits [3:0] (R80). -/
def opField (w : Word) : BitVec 4 := w.extractLsb' 0 4

/-- `IMM5`, bits [8:4] (R80). -/
def imm5Field (w : Word) : BitVec 5 := w.extractLsb' 4 5

/-- `RSV`, bits [31:9] (R80). -/
def rsvField (w : Word) : BitVec 23 := w.extractLsb' 9 23

/-- The opcode map of R83. Opcodes 0xD to 0xF are reserved (R84). -/
def opcodeMap (op : BitVec 4) (imm : BitVec 5) : Option Instr :=
  match op.toNat with
  | 0x0 => some .nop
  | 0x1 => some .wadd
  | 0x2 => some .wxor
  | 0x3 => some (.wrotl imm)
  | 0x4 => some .qr
  | 0x5 => some .colrnd
  | 0x6 => some .rowrnd
  | 0x7 => some .dblrnd
  | 0x8 => some .perm10
  | 0x9 => some .hash
  | 0xA => some .expand
  | 0xB => some .ksgen
  | 0xC => some .clear
  | _ => none

/-- The decoder, in the order of R81's pseudocode: reserved opcode, then RSV, then IMM5 outside WROTL. -/
def decode (w : Word) : Verdict :=
  match opcodeMap (opField w) (imm5Field w) with
  | none => .badcmd .reservedOpcode
  | some i =>
    if rsvField w ≠ 0 then .badcmd .rsvNonzero
    else if opField w ≠ 0x3 ∧ imm5Field w ≠ 0 then .badcmd .imm5Nonzero
    else .command i

/-- The `OP` value of a command (R83). -/
def opcode : Instr → BitVec 4
  | .nop => 0x0
  | .wadd => 0x1
  | .wxor => 0x2
  | .wrotl _ => 0x3
  | .qr => 0x4
  | .colrnd => 0x5
  | .rowrnd => 0x6
  | .dblrnd => 0x7
  | .perm10 => 0x8
  | .hash => 0x9
  | .expand => 0xA
  | .ksgen => 0xB
  | .clear => 0xC

/-- The `IMM5` value of a command: `n` for WROTL, "must be 0 for every other opcode" (R80). -/
def imm5 : Instr → BitVec 5
  | .wrotl n => n
  | .nop | .wadd | .wxor | .qr | .colrnd | .rowrnd | .dblrnd | .perm10 | .hash | .expand | .ksgen | .clear => 0

/-- The command word, `RSV` zero: `00000000000000000000000 iiiii oooo` (R80). -/
def encode (i : Instr) : Word := 0#23 ++ imm5 i ++ opcode i

/-- The command the decoder reads from an instruction of the opcode table whose bits are `w`. Every command is one
32-bit word (R80), which the bus moves whole (R64), so bit 0 of the word is bit 0 of `w`; bits above `nbits` are 0. -/
def decodeTableWord (nbits w : Nat) : Option Instr :=
  let v := w % 2 ^ nbits
  if v < 2 ^ 32 then
    match decode (BitVec.ofNat 32 v) with
    | .command i => some i
    | .badcmd _ => none
  else none

end Sys2Proof
end

