-- ==== Sys2Proof/Machine/State.lean ====
section
/-! DEFINITION. The state of the machine: every element of the tuple of spec/10_state.md R20, the reset pin and the
read data of the bus port (spec/20_memory.md R60), the implementation's parameters (log entry 1), and three fields of
the model's own (`host`, `turns`, `draws`; log entries 2, 3, 5). Plain data, no function. -/

namespace Sys2Proof.Machine

/-- The codes of `STATUS.ERR` (spec/60_exceptions.md R200). The values 5 to 15 "are never produced", so they are not
here. -/
inductive ErrCode where
  | noError
  | badcmd
  | busy
  | ctr
  | len
  deriving DecidableEq, Repr

/-- The bytes of the keystream buffer by byte address of the window (R36, R62): addresses strictly rising, and no
entry 0, which is what an unlisted address reads as (R40: every KSBUF word is 0 after reset; log entry 8). -/
abbrev Memory := List Host.Cell

/-- The architectural state. -/
structure State where
  /-- `CTR_MAX`, `CTR_FIELD_ORDER`, `KSBUF_BLOCKS` (R11 to R13). No step changes it. -/
  params : Config.Params
  /-- Operand word `A` (R22). -/
  A : Word
  /-- Operand word `B` (R22). -/
  B : Word
  /-- Result word `R` of the word commands (R22). -/
  R : Word
  /-- Quarter-round words `Q[0..3]` (R23). -/
  Q : Vector Word 4
  /-- The state array `S[0..15]` (R24). -/
  S : Block
  /-- The output words `OUT[0..15]` (R25). -/
  OUT : Block
  /-- The key `KEY[0..7]` (R26). -/
  KEY : Vector Word 8
  /-- The nonce `NONCE[0..1]` (R34). -/
  NONCE : Vector Word 2
  /-- The block counter, `CTR_HI` above `CTR_LO` (R35). -/
  CTR : Counter
  /-- The keystream length in bytes (R33). -/
  KSLEN : Word
  /-- `CFG.KEYSZ`: true is a 256-bit key (R32). -/
  KEYSZ : Bool
  /-- `IE.DONEIE` (R31). -/
  DONEIE : Bool
  /-- `IE.ERRIE` (R31). -/
  ERRIE : Bool
  /-- `STATUS.DONE` (R30). -/
  DONE : Bool
  /-- `STATUS.ERR` (R30, R200). -/
  ERR : ErrCode
  /-- The keystream buffer (R36). -/
  KSBUF : Memory
  /-- The command accepted and not yet completed (R37). -/
  PEND : Option Instr
  /-- The level of the pin `rst_n` (R60, R230). -/
  rstN : Bool
  /-- The port's read data as the host last received it (R60; log entry 6). -/
  rdata : Word
  /-- MODEL. The host's moves not yet made, in program order (R71; log entry 3). -/
  host : List HostMove
  /-- MODEL. Who moves at each coming step; when it is empty the engine moves first (R204; log entry 2). -/
  turns : List Agent
  /-- MODEL. How many free draws have been read (R241; log entry 5). -/
  draws : Nat
  deriving DecidableEq, Repr

/-- The hardware has no trap and no stuck state (R209, 93_implementation_defined.md: "No item of this hardware is
`stuck`"), and every error is a code in STATUS that the machine goes on from (R203). So no step ends in a fault, and
the type of faults is empty. Safe: nothing can be proved from a fault that cannot happen. -/
inductive Fault where
  deriving DecidableEq, Repr

/-- The reasons the model has no transition. -/
inductive Refusal where
  /-- No arm of this model raises it: every command has its meaning. Safe: the model would stop where the hardware
  goes on. -/
  | notModelled (mnemonic : String)
  /-- Raised by a host access at an offset that is no access of the port: "The model refuses any other offset" (R65).
  Safe: the port cannot express such an access. -/
  | notAnAccess (off : Nat)
  deriving DecidableEq, Repr

/-- The reset state of R40 for the implementation `p`: every register 0, every KSBUF word 0, nothing pending. -/
def State.resetOf (p : Config.Params) : State :=
  { params := p
    A := 0
    B := 0
    R := 0
    Q := #v[0, 0, 0, 0]
    S := #v[0, 0, 0, 0, 0, 0, 0, 0, 0, 0, 0, 0, 0, 0, 0, 0]
    OUT := #v[0, 0, 0, 0, 0, 0, 0, 0, 0, 0, 0, 0, 0, 0, 0, 0]
    KEY := #v[0, 0, 0, 0, 0, 0, 0, 0]
    NONCE := #v[0, 0]
    CTR := 0
    KSLEN := 0
    KEYSZ := false
    DONEIE := false
    ERRIE := false
    DONE := false
    ERR := .noError
    KSBUF := []
    PEND := none
    rstN := true
    rdata := 0
    host := []
    turns := []
    draws := 0 }

/-- The machine right after reset (R40, R230), with the default parameters of R11 to R13. -/
def State.reset : State := State.resetOf Config.Params.default

end Sys2Proof.Machine
end

