-- ==== Sys2Proof/Machine/Flags.lean ====
section
/-! DEFINITION. STATUS, its error codes, the error record and the interrupt output: spec/10_state.md R30, R37 to R39,
spec/60_exceptions.md R200, R207. The hardware has no arithmetic flag (R39). -/

namespace Sys2Proof.Machine

/-- The code of R200, as STATUS[7:4] shows it. -/
def ErrCode.code : ErrCode → BitVec 4
  | .noError => 0
  | .badcmd => 1
  | .busy => 2
  | .ctr => 3
  | .len => 4

/-- `STATUS.BUSY = (PEND != none)` (R37). -/
def busy (s : State) : Bool := s.PEND.isSome

/-- The word a read of STATUS returns (R30): ERR in [7:4], ERRC and bit 2 read 0, DONE in [1], BUSY in [0]. -/
def statusWord (s : State) : Word :=
  0#24 ++ s.ERR.code ++ 0#2 ++ BitVec.ofBool s.DONE ++ BitVec.ofBool (busy s)

/-- `if STATUS.ERR = 0: STATUS.ERR <- e` (R203, R240): the first error is kept. -/
def recordErr (e : ErrCode) (s : State) : State :=
  { s with ERR := if s.ERR = .noError then e else s.ERR }

/-- A write of STATUS (R30): bit 1 clears DONE (W1C), bit 3 (ERRC) clears ERR, every other bit has no effect. -/
def writeStatus (v : Word) (s : State) : State :=
  { s with
    DONE := s.DONE && !v.getLsbD 1
    ERR := if v.getLsbD 3 then .noError else s.ERR }

/-- The interrupt output: `(DONE & DONEIE) | ((ERR != 0) & ERRIE)` (R38, R207), and 0 while `rst_n = 0` (R230). -/
def irq (s : State) : Bool :=
  s.rstN && ((s.DONE && s.DONEIE) || (s.ERR != .noError && s.ERRIE))

end Sys2Proof.Machine
end

