-- ==== Sys2Proof/Machine/Operands.lean ====
section
/-! DEFINITION. The word primitives of spec/00_scope.md R16 and spec/40_word_ops.md R100 to R104, the codec of
spec/42_hash.md R140, the halves of CTR (spec/10_state.md R35), and the values of the parameters (R11, R13). -/

namespace Sys2Proof.Machine

/-- `add32(a, b) = (a + b) mod 2^32` (R16, R101: no carry output). -/
def add32 (a b : Word) : Word := a + b

/-- Bitwise exclusive-or of two words (R16, R102). -/
def xor32 (a b : Word) : Word := a ^^^ b

/-- `rotl32(a, n) = ((a << n) | (a >> (32 - n)))` for `0 < n < 32`, with a logical right shift, and
`rotl32(a, 0) = a` (R16, R104). -/
def rotl32 (a : Word) (n : Nat) : Word :=
  if n = 0 then a else (a <<< n) ||| (a >>> (32 - n))

/-- `le32(b0, b1, b2, b3)`: `b0` is the least significant byte (R140). -/
def le32 (b0 b1 b2 b3 : Byte) : Word := b3 ++ b2 ++ b1 ++ b0

/-- Byte lane `j` of a word, `word[8*j+7 : 8*j]` (R62). `le32inv(w)` is lanes 0 to 3 (R140). -/
def lane (w : Word) (j : Nat) : Byte := w.extractLsb' (8 * j) 8

/-- `bswap32(w)`: bits [31:24] are `w[7:0]` and so on down (R16). -/
def bswap32 (w : Word) : Word := lane w 0 ++ lane w 1 ++ lane w 2 ++ lane w 3

/-- `CTR[31:0]` (R35). -/
def ctrLo (c : Counter) : Word := c.extractLsb' 0 32

/-- `CTR[63:32]` (R35). -/
def ctrHi (c : Counter) : Word := c.extractLsb' 32 32

/-- The counter of two halves (R35). -/
def ctrOf (hi lo : Word) : Counter := hi ++ lo

/-- `CTR_MAX` as a number (R11). -/
def ctrMaxVal : Config.CtrMax → Nat
  | .full64 => 2 ^ 64 - 1
  | .safe53 => 2 ^ 53 - 1

/-- `KSBUF_BLOCKS` (R13). -/
def ksBlocks (p : Config.Params) : Nat := p.blocksLess1.val + 1

/-- `nb = ceil(KSLEN / 64)`, computed as `(KSLEN + 63) div 64` with no wrap (R170). -/
def blockCount (kslen : Word) : Nat := (kslen.toNat + 63) / 64

end Sys2Proof.Machine
end

