-- ==== Sys2Proof/Machine/Ops.lean ====
section
/-! DEFINITION. The shared operations: the keystream buffer's bytes and words (spec/10_state.md R36, spec/20_memory.md
R62), and the command handshake: acceptance, rejection and completion (spec/60_exceptions.md R202 to R204). There is
no trap entry (R209): rejection is what an error does, and it is written once, here. -/

namespace Sys2Proof.Machine

/-! ## The bytes of the keystream buffer -/

/-- The byte at an address; an unlisted one reads 0, its reset value (R36, R40). -/
def Memory.byte : Memory → Nat → Byte
  | [], _ => 0
  | (k, b) :: rest, a => if k = a then b else Memory.byte rest a

/-- Put one byte at an address, keeping the canonical form: a 0 is not listed. -/
def Memory.put : Memory → Nat → Byte → Memory
  | [], a, b => if b = 0 then [] else [(a, b)]
  | (k, c) :: rest, a, b =>
    if a < k then (if b = 0 then (k, c) :: rest else (a, b) :: (k, c) :: rest)
    else if a = k then (if b = 0 then rest else (a, b) :: rest)
    else (k, c) :: Memory.put rest a b

/-- Every address of the list is above `a`. -/
def Memory.above (a : Nat) (m : Memory) : Bool := m.all fun c => a < c.1

/-- The canonical form: addresses strictly rising, no entry 0. -/
def Memory.wf : Memory → Bool
  | [] => true
  | (k, b) :: rest => b != 0 && Memory.above k rest && Memory.wf rest

/-- The word whose lane 0 is at address `a` (R62). -/
def Memory.word (m : Memory) (a : Nat) : Word :=
  le32 (m.byte a) (m.byte (a + 1)) (m.byte (a + 2)) (m.byte (a + 3))

/-- Store a word, lane 0 at address `a` (R62). -/
def Memory.putWord (m : Memory) (a : Nat) (w : Word) : Memory :=
  (((m.put a (lane w 0)).put (a + 1) (lane w 1)).put (a + 2) (lane w 2)).put (a + 3) (lane w 3)

/-- The byte address of KSBUF word `w`: offset `0x400 + 4*w` (R36). -/
def ksAddr (w : Nat) : Nat := 0x400 + 4 * w

/-- Store the words of a list from KSBUF word `w` on. -/
def Memory.putWords (m : Memory) (w : Nat) : List Word → Memory
  | [] => m
  | v :: rest => Memory.putWords (m.putWord (ksAddr w) v) (w + 1) rest

/-- Store a keystream block as block `b` of KSBUF, words `16*b .. 16*b+15` (R36). -/
def Memory.putBlock (m : Memory) (b : Nat) (x : Block) : Memory := m.putWords (16 * b) x.toList

/-- One past the last byte address of KSBUF: `0x400 + 64*KSBUF_BLOCKS` (R61). -/
def ksEnd (p : Config.Params) : Nat := 0x400 + 64 * ksBlocks p

/-! ## The command handshake -/

/-- Acceptance (R202): DONE <- 0, ERR <- 0, PEND <- the command. -/
def accept (i : Instr) (s : State) : State :=
  { s with DONE := false, ERR := .noError, PEND := some i }

/-- Rejection with error code `e` (R203): DONE <- 0, and ERR <- `e` if it was 0. Nothing else changes. -/
def reject (e : ErrCode) (s : State) : State := recordErr e { s with DONE := false }

/-- The end of a completion (R204 steps 2 and 3): PEND <- none, DONE <- 1, ERR as it is. -/
def complete (s : State) : State := { s with PEND := none, DONE := true }

/-- One step of the command `i`, whose own error at issue is `err` and whose effect is `effect` (log entry 4).

* Nothing in flight: the command is issued, and is rejected (R203) or accepted (R202).
* The command itself in flight: its completion, one atomic step (R204). It cannot fail.
* Another command in flight: the issue is rejected with BUSY (R201, first in the order). -/
def command (i : Instr) (err : State → Option ErrCode) (effect : State → State) (s : State) :
    Host.Outcome State Fault Refusal :=
  match s.PEND with
  | none =>
    match err s with
    | some e => .next (reject e s)
    | none => .next (accept i s)
  | some j => if j = i then .next (complete (effect s)) else .next (reject .busy s)

/-- The check of a command with no error of its own: "Errors: none beyond BUSY and BADCMD" (40 to 42, 44). -/
def noErr (_ : State) : Option ErrCode := none

end Sys2Proof.Machine
end

