-- ==== Sys2Proof/Machine/Control.lean ====
section
/-! DEFINITION. NOP and CLEAR: spec/44_control.md. -/

namespace Sys2Proof.Machine

/-- "No effect other than the handshake" (R190). -/
def nopEffect (s : State) : State := s

/-- NOP (R190). -/
def execNop (s : State) : Host.Outcome State Fault Refusal :=
  command .nop noErr nopEffect s

/-- Zeroise every data register and KSBUF; `CFG` and `IE` keep their values (R192). -/
def clearEffect (s : State) : State :=
  { s with
    A := 0
    B := 0
    R := 0
    Q := Vector.replicate 4 0
    S := Vector.replicate 16 0
    OUT := Vector.replicate 16 0
    KEY := Vector.replicate 8 0
    NONCE := Vector.replicate 2 0
    CTR := 0
    KSLEN := 0
    KSBUF := [] }

/-- CLEAR (R192). -/
def execClear (s : State) : Host.Outcome State Fault Refusal :=
  command .clear noErr clearEffect s

end Sys2Proof.Machine
end

