-- ==== Sys2Proof/Machine/Rounds.lean ====
section
/-! DEFINITION. The quarter-round, the rounds and the double-round, and their commands QR, COLRND, ROWRND and DBLRND:
spec/41_rounds.md. -/

namespace Sys2Proof.Machine

/-- The quarter-round `QR(y0, y1, y2, y3) -> (z0, z1, z2, z3)` (R120): the chain z1, z2, z3, z0. -/
def qr (y0 y1 y2 y3 : Word) : Word × Word × Word × Word :=
  let z1 := xor32 y1 (rotl32 (add32 y0 y3) 7)
  let z2 := xor32 y2 (rotl32 (add32 z1 y0) 9)
  let z3 := xor32 y3 (rotl32 (add32 z2 z1) 13)
  let z0 := xor32 y0 (rotl32 (add32 z3 z2) 18)
  (z0, z1, z2, z3)

/-- `rowround(y)` (R123): every group reads the input state (R125). -/
def rowround (y : Block) : Block :=
  let (z0, z1, z2, z3) := qr y[0] y[1] y[2] y[3]
  let (z5, z6, z7, z4) := qr y[5] y[6] y[7] y[4]
  let (z10, z11, z8, z9) := qr y[10] y[11] y[8] y[9]
  let (z15, z12, z13, z14) := qr y[15] y[12] y[13] y[14]
  #v[z0, z1, z2, z3, z4, z5, z6, z7, z8, z9, z10, z11, z12, z13, z14, z15]

/-- `columnround(y)` (R124): every group reads the input state (R125). -/
def columnround (y : Block) : Block :=
  let (z0, z4, z8, z12) := qr y[0] y[4] y[8] y[12]
  let (z5, z9, z13, z1) := qr y[5] y[9] y[13] y[1]
  let (z10, z14, z2, z6) := qr y[10] y[14] y[2] y[6]
  let (z15, z3, z7, z11) := qr y[15] y[3] y[7] y[11]
  #v[z0, z1, z2, z3, z4, z5, z6, z7, z8, z9, z10, z11, z12, z13, z14, z15]

/-- `doubleround(s) = rowround(columnround(s))`: the column-round comes first (R129). -/
def doubleround (x : Block) : Block := rowround (columnround x)

/-- QR on the registers (R122): all four read before any write. -/
def qrEffect (s : State) : State :=
  let (z0, z1, z2, z3) := qr s.Q[0] s.Q[1] s.Q[2] s.Q[3]
  { s with Q := #v[z0, z1, z2, z3] }

/-- QR (R122). -/
def execQr (s : State) : Host.Outcome State Fault Refusal :=
  command .qr noErr qrEffect s

/-- `S <- columnround(S)` (R126). -/
def colrndEffect (s : State) : State := { s with S := columnround s.S }

/-- COLRND (R126). -/
def execColrnd (s : State) : Host.Outcome State Fault Refusal :=
  command .colrnd noErr colrndEffect s

/-- `S <- rowround(S)` (R127). -/
def rowrndEffect (s : State) : State := { s with S := rowround s.S }

/-- ROWRND (R127). -/
def execRowrnd (s : State) : Host.Outcome State Fault Refusal :=
  command .rowrnd noErr rowrndEffect s

/-- `S <- rowround(columnround(S))` (R130). -/
def dblrndEffect (s : State) : State := { s with S := doubleround s.S }

/-- DBLRND (R130). -/
def execDblrnd (s : State) : Host.Outcome State Fault Refusal :=
  command .dblrnd noErr dblrndEffect s

end Sys2Proof.Machine
end

