-- ==== Sys2Proof/Machine/Hash.lean ====
section
/-! DEFINITION. The 10-iteration permutation and the Salsa20 hash, and their commands PERM10 and HASH:
spec/42_hash.md. -/

namespace Sys2Proof.Machine

/-- `perm10(x) = doubleround^10(x)` (R142). The count is the constant 10 (R143). -/
def perm10 (x : Block) : Block := doubleround^[10] x

/-- Sixteen `word_add_mod32`, one per word: the feed-forward addition (R101, R145). -/
def addBlocks (p x : Block) : Block :=
  #v[add32 p[0] x[0], add32 p[1] x[1], add32 p[2] x[2], add32 p[3] x[3],
     add32 p[4] x[4], add32 p[5] x[5], add32 p[6] x[6], add32 p[7] x[7],
     add32 p[8] x[8], add32 p[9] x[9], add32 p[10] x[10], add32 p[11] x[11],
     add32 p[12] x[12], add32 p[13] x[13], add32 p[14] x[14], add32 p[15] x[15]]

/-- `hash(x)[i] = add32(perm10(x)[i], x[i])` (R145): the feed-forward adds the state before the first
double-round. -/
def hashBlock (x : Block) : Block := addBlocks (perm10 x) x

/-- `S <- perm10(S)` (R144). -/
def perm10Effect (s : State) : State := { s with S := perm10 s.S }

/-- PERM10 (R144). -/
def execPerm10 (s : State) : Host.Outcome State Fault Refusal :=
  command .perm10 noErr perm10Effect s

/-- `OUT <- hash(S)`; `S` is left unchanged (R146). -/
def hashEffect (s : State) : State := { s with OUT := hashBlock s.S }

/-- HASH (R146). -/
def execHash (s : State) : Host.Outcome State Fault Refusal :=
  command .hash noErr hashEffect s

end Sys2Proof.Machine
end

