-- ==== Sys2Proof/Machine/Keystream.lean ====
section
/-! DEFINITION. The expansion and the keystream generator, and their commands EXPAND and KSGEN:
spec/43_expansion_keystream.md. -/

namespace Sys2Proof.Machine

/-- The constant words of R161: σ for a 256-bit key, τ for a 128-bit key (log entry 13). -/
def constants (keysz : Bool) : Vector Word 4 :=
  if keysz then #v[0x61707865, 0x3320646E, 0x79622D32, 0x6B206574]
  else #v[0x61707865, 0x3120646E, 0x79622D36, 0x6B206574]

/-- The words of the key slot after `c2` (R164): key1 for a 256-bit key, key0 again for a 128-bit key. -/
def secondKey (key : Vector Word 8) (keysz : Bool) : Vector Word 4 :=
  if keysz then #v[key[4], key[5], key[6], key[7]] else #v[key[0], key[1], key[2], key[3]]

/-- `x[8]` and `x[9]`, the words of the encoded counter (R163, R164). -/
def ctrWords (order : Config.FieldOrder) (c : Counter) : Word × Word :=
  match order with
  | .be => (bswap32 (ctrHi c), bswap32 (ctrLo c))
  | .le => (ctrLo c, ctrHi c)

/-- The expansion input `xin(KEY, KEYSZ, NONCE, C)` as 16 words (R164). -/
def xin (order : Config.FieldOrder) (key : Vector Word 8) (keysz : Bool) (nonce : Vector Word 2) (c : Counter) :
    Block :=
  let k := constants keysz
  let k1 := secondKey key keysz
  let (x8, x9) := ctrWords order c
  #v[k[0], key[0], key[1], key[2], key[3], k[1], nonce[0], nonce[1],
     x8, x9, k[2], k1[0], k1[1], k1[2], k1[3], k[3]]

/-- The expansion input of a state's key, key size and nonce, for the counter `c`. -/
def inputAt (s : State) (c : Counter) : Block := xin s.params.order s.KEY s.KEYSZ s.NONCE c

/-- EXPAND's own error (R165): CTR when `CTR > CTR_MAX`. -/
def expandError (s : State) : Option ErrCode :=
  if s.CTR.toNat > ctrMaxVal s.params.ctrMax then some .ctr else none

/-- `S <- x; OUT <- hash(x)`; `CTR` is unchanged (R166). -/
def expandEffect (s : State) : State :=
  { s with S := inputAt s s.CTR, OUT := hashBlock (inputAt s s.CTR) }

/-- EXPAND (R166). -/
def execExpand (s : State) : Host.Outcome State Fault Refusal :=
  command .expand expandError expandEffect s

/-- KSGEN's own errors, in the order of R201: CTR when `C + nb > CTR_MAX`, computed exactly (R171), then LEN when
`nb > KSBUF_BLOCKS` (R172). -/
def ksgenError (s : State) : Option ErrCode :=
  if s.CTR.toNat + blockCount s.KSLEN > ctrMaxVal s.params.ctrMax then some .ctr
  else if blockCount s.KSLEN > ksBlocks s.params then some .len
  else none

/-- The counter of block `b` of a KSGEN that starts at `c`: `C + b` (R169). -/
def ctrAdd (c : Counter) (b : Nat) : Counter := BitVec.ofNat 64 (c.toNat + b)

/-- KSBUF with blocks `0 .. n-1` written, block `b` the hash of the expansion input at `C + b` (R174). -/
def ksWrite (s : State) : Nat → Memory
  | 0 => s.KSBUF
  | n + 1 => (ksWrite s n).putBlock n (hashBlock (inputAt s (ctrAdd s.CTR n)))

/-- Blocks `0 .. nb-1` of KSBUF, and `CTR <- C + nb` (R173, R174). -/
def ksgenEffect (s : State) : State :=
  { s with KSBUF := ksWrite s (blockCount s.KSLEN), CTR := ctrAdd s.CTR (blockCount s.KSLEN) }

/-- KSGEN (R174). -/
def execKsgen (s : State) : Host.Outcome State Fault Refusal :=
  command .ksgen ksgenError ksgenEffect s

end Sys2Proof.Machine
end

