-- ==== Sys2Proof/Machine/WordOps.lean ====
section
/-! DEFINITION. WADD, WXOR and WROTL: spec/40_word_ops.md. -/

namespace Sys2Proof.Machine

/-- `R <- add32(A, B)` (R100). -/
def waddEffect (s : State) : State := { s with R := add32 s.A s.B }

/-- WADD (R100). -/
def execWadd (s : State) : Host.Outcome State Fault Refusal :=
  command .wadd noErr waddEffect s

/-- `R <- A ^ B` (R102). -/
def wxorEffect (s : State) : State := { s with R := xor32 s.A s.B }

/-- WXOR (R102). -/
def execWxor (s : State) : Host.Outcome State Fault Refusal :=
  command .wxor noErr wxorEffect s

/-- `R <- rotl32(A, n)`, `n = zext_32(IMM5)` (R82, R103). -/
def wrotlEffect (n : BitVec 5) (s : State) : State := { s with R := rotl32 s.A n.toNat }

/-- WROTL (R103). -/
def execWrotl (n : BitVec 5) (s : State) : Host.Outcome State Fault Refusal :=
  command (.wrotl n) noErr (wrotlEffect n) s

end Sys2Proof.Machine
end

