-- ==== Sys2Proof/Machine/Dispatch.lean ====
section
/-! DEFINITION. One arm per command: the meaning of each is one step of it (Ops.command, log entry 4). -/

namespace Sys2Proof.Machine

def exec (i : Instr) (s : State) : Host.Outcome State Fault Refusal :=
  match i with
  | .nop => Sys2Proof.Machine.execNop s
  | .wadd => Sys2Proof.Machine.execWadd s
  | .wxor => Sys2Proof.Machine.execWxor s
  | .wrotl n => Sys2Proof.Machine.execWrotl n s
  | .qr => Sys2Proof.Machine.execQr s
  | .colrnd => Sys2Proof.Machine.execColrnd s
  | .rowrnd => Sys2Proof.Machine.execRowrnd s
  | .dblrnd => Sys2Proof.Machine.execDblrnd s
  | .perm10 => Sys2Proof.Machine.execPerm10 s
  | .hash => Sys2Proof.Machine.execHash s
  | .expand => Sys2Proof.Machine.execExpand s
  | .ksgen => Sys2Proof.Machine.execKsgen s
  | .clear => Sys2Proof.Machine.execClear s

end Sys2Proof.Machine
end

