-- ==== Sys2Proof/Machine/Window.lean ====
section
/-! DEFINITION. The register window: which register stands at an offset (spec/20_memory.md R61), what a read of it
returns and what a write of it does while the engine is idle (spec/10_state.md R22 to R36, spec/20_memory.md R68,
R69). -/

namespace Sys2Proof.Machine

/-- `ID` (R27). -/
def idWord : Word := 0x5A200007

/-- `HWCFG` (R28): NBLK in [4:0], CTR53 in [8], CTRLE in [9], every other bit 0. -/
def hwcfgWord (p : Config.Params) : Word :=
  0#22 ++ BitVec.ofBool (decide (p.order = .le)) ++ BitVec.ofBool (decide (p.ctrMax = .safe53)) ++
    0#3 ++ BitVec.ofNat 5 (ksBlocks p)

/-- Offset of `CMD` (R29). -/
def cmdOff : Nat := 0x004

/-- The address map of R61, for an aligned offset of the window. KSBUF words at or above `16*KSBUF_BLOCKS` are
reserved. -/
def regAt (p : Config.Params) (off : Nat) : Reg :=
  if off = 0x000 then .id
  else if off = 0x004 then .cmd
  else if off = 0x008 then .status
  else if off = 0x00C then .hwcfg
  else if off = 0x010 then .ie
  else if off = 0x014 then .cfg
  else if off = 0x018 then .kslen
  else if off = 0x020 then .a
  else if off = 0x024 then .b
  else if off = 0x028 then .r
  else if 0x030 ≤ off ∧ off ≤ 0x03C then .q (Fin.ofNat 4 ((off - 0x030) / 4))
  else if 0x040 ≤ off ∧ off ≤ 0x07C then .s (Fin.ofNat 16 ((off - 0x040) / 4))
  else if 0x080 ≤ off ∧ off ≤ 0x0BC then .out (Fin.ofNat 16 ((off - 0x080) / 4))
  else if 0x0C0 ≤ off ∧ off ≤ 0x0DC then .key (Fin.ofNat 8 ((off - 0x0C0) / 4))
  else if 0x0E0 ≤ off ∧ off ≤ 0x0E4 then .nonce (Fin.ofNat 2 ((off - 0x0E0) / 4))
  else if off = 0x0E8 then .ctrLo
  else if off = 0x0EC then .ctrHi
  else if 0x400 ≤ off ∧ off < ksEnd p then .ksbuf ((off - 0x400) / 4)
  else .reserved

/-- What a register holds for a read (R61, R68, R69): WO and reserved words read 0. -/
def readReg (g : Reg) (s : State) : Word :=
  match g with
  | .id => idWord
  | .cmd => 0
  | .status => statusWord s
  | .hwcfg => hwcfgWord s.params
  | .ie => 0#30 ++ BitVec.ofBool s.ERRIE ++ BitVec.ofBool s.DONEIE
  | .cfg => 0#31 ++ BitVec.ofBool s.KEYSZ
  | .kslen => s.KSLEN
  | .a => s.A
  | .b => s.B
  | .r => s.R
  | .q i => s.Q[i]
  | .s i => s.S[i]
  | .out i => s.OUT[i]
  | .key _ => 0
  | .nonce i => s.NONCE[i]
  | .ctrLo => Sys2Proof.Machine.ctrLo s.CTR
  | .ctrHi => Sys2Proof.Machine.ctrHi s.CTR
  | .ksbuf w => s.KSBUF.word (ksAddr w)
  | .reserved => 0

/-- The volatile registers of R241: "the registers some command writes" and a read returns. -/
def volatileReg : Reg → Bool
  | .a | .b | .r | .q _ | .s _ | .out _ | .nonce _ | .ctrLo | .ctrHi | .kslen | .ksbuf _ => true
  | .id | .cmd | .status | .hwcfg | .ie | .cfg | .key _ | .reserved => false

/-- A write of IE (R31): bits [1:0], the rest RAZ/WI. -/
def writeIe (v : Word) (s : State) : State :=
  { s with DONEIE := v.getLsbD 0, ERRIE := v.getLsbD 1 }

/-- A write of a register other than CMD, STATUS and IE while the engine is idle (R22 to R36): RO and reserved
words ignore it and record no error (R68). CMD, STATUS and IE have their own operations (Bus). -/
def writeReg (g : Reg) (v : Word) (s : State) : State :=
  match g with
  | .cfg => { s with KEYSZ := v.getLsbD 0 }
  | .kslen => { s with KSLEN := v }
  | .a => { s with A := v }
  | .b => { s with B := v }
  | .q i => { s with Q := s.Q.set i v }
  | .s i => { s with S := s.S.set i v }
  | .key i => { s with KEY := s.KEY.set i v }
  | .nonce i => { s with NONCE := s.NONCE.set i v }
  | .ctrLo => { s with CTR := ctrOf (Sys2Proof.Machine.ctrHi s.CTR) v }
  | .ctrHi => { s with CTR := ctrOf v (Sys2Proof.Machine.ctrLo s.CTR) }
  | .id | .cmd | .status | .hwcfg | .ie | .r | .out _ | .ksbuf _ | .reserved => s

end Sys2Proof.Machine
end

