-- ==== Sys2Proof/Machine/Bus.lean ====
section
/-! DEFINITION. The host's moves: bus writes and reads (spec/20_memory.md R60 to R69), the rules while BUSY
(spec/70_reset_and_hazards.md R240, R241), command issue (spec/60_exceptions.md R201 to R203) and the reset pin
(spec/70_reset_and_hazards.md R230, R231). The engine's move: completion (R204). -/

namespace Sys2Proof.Machine

/-- A write of `w` to CMD (R29): BUSY first, then BADCMD, then the command's own check (R201). A decoded command is
issued by its meaning. -/
def cmdWrite (w : Word) (s : State) : Host.Outcome State Fault Refusal :=
  if busy s then .next (reject .busy s)
  else
    match decode w with
    | .badcmd _ => .next (reject .badcmd s)
    | .command i => exec i s

/-- A bus write at an offset of the window. While `rst_n = 0` it "has no effect and records no error" (R230). STATUS
and IE are written at any time; while BUSY every other write is dropped and records error BUSY (R240), a CMD write
being a rejection. -/
def busWrite (off : Nat) (v : Word) (s : State) : Host.Outcome State Fault Refusal :=
  if !offsetOk off then .refused (.notAnAccess off)
  else if !s.rstN then .next s
  else
    match regAt s.params off with
    | .status => .next (writeStatus v s)
    | .ie => .next (writeIe v s)
    | .cmd => cmdWrite v s
    | g => if busy s then .next (recordErr .busy s) else .next (writeReg g v s)

/-- A bus read at an offset of the window; the value goes to `rdata`. While `rst_n = 0` it returns 0 (R230). While
BUSY a read of a volatile register is a free draw, and every other read is exact (R241). -/
def busRead (off : Nat) (s : State) : Host.Outcome State Fault Refusal :=
  if !offsetOk off then .refused (.notAnAccess off)
  else if !s.rstN then .next { s with rdata := 0 }
  else if busy s && volatileReg (regAt s.params off) then
    .next { s with rdata := Config.freeRead s.draws, draws := s.draws + 1 }
  else .next { s with rdata := readReg (regAt s.params off) s }

/-- The state of R40 for this implementation, with the surroundings of the machine (the host's coming moves, the
turns, the last read data, the draws) as they are. -/
def resetInPlace (s : State) : State :=
  { State.resetOf s.params with host := s.host, turns := s.turns, rdata := s.rdata, draws := s.draws }

/-- The pin `rst_n` (R230, R231): driven low, the command in flight is abandoned; driven high after low, the state is
the reset state "whatever it was before"; driven high while high, nothing changes. DESIGN CHOICE, unsafe for the
registers inside while the pin is low (log entry 7): the abandonment happens as the pin goes low, and every other
register is left until the release. -/
def drivePin (level : Bool) (s : State) : State :=
  if level then (if s.rstN then s else resetInPlace s)
  else { s with rstN := false, PEND := none }

/-- One move of the host. -/
def hostMove (m : HostMove) (s : State) : Host.Outcome State Fault Refusal :=
  match m with
  | .write off v => busWrite off v s
  | .read off => busRead off s
  | .rst level => .next (drivePin level s)

/-- The turn of this step is used up (log entry 2). -/
def popTurn (s : State) : State := { s with turns := s.turns.tail }

/-- The host's next move is made (log entry 3). -/
def popHost (s : State) : State := { s with host := s.host.tail }

/-- The host's turn: its next move, or a cycle without an access. -/
def hostStep (s : State) : Host.Outcome State Fault Refusal :=
  match s.host with
  | [] => .next s
  | m :: _ => hostMove m (popHost s)

/-- The engine's turn: when a command is in flight "the engine has one enabled step, its completion" (R204); when none
is, or in reset (R231: "no completion step follows"), it does nothing. -/
def engineStep (s : State) : Host.Outcome State Fault Refusal :=
  match s.PEND with
  | none => .next s
  | some i => if s.rstN then exec i s else .next s

/-- Who moves next: the head of `turns`; when `turns` is empty, the engine if a command is in flight, else the host.
A completion may fall between any two host moves after acceptance (R204, R243), and is always taken at last: weak
fairness (log entry 2). -/
def mover (s : State) : Agent :=
  match s.turns with
  | t :: _ => t
  | [] => if busy s && s.rstN then .engine else .host

end Sys2Proof.Machine
end

