-- ==== Sys2Proof/Machine/Step.lean ====
section
/-! DEFINITION. One step of the machine: one bus access of the host or one completion of the engine
(spec/00_scope.md R19), and how a command word is placed so that the next step runs it. -/

namespace Sys2Proof.Machine

/-- One step: the turn is used up, and its agent moves. -/
def step (s : State) : Host.Outcome State Fault Refusal :=
  match mover s with
  | .engine => engineStep (popTurn s)
  | .host => hostStep (popTurn s)

/-- `s` with the command word `w` where the machine takes its next command from (log entry 3). The hardware fetches
nothing (R21): a command comes to run because the host writes it to CMD. This is the state right after the host has
written `w` to CMD of the idle machine and it was accepted, the engine to move next: the next step runs exactly the
command. A word that CMD rejects is left as the host's next move, so that the next step is its rejection. -/
def State.withFetchWord (s : State) (nbits w : Nat) : State :=
  let word : Word := BitVec.ofNat 32 (w % 2 ^ nbits)
  let idle := { s with PEND := none, rstN := true, turns := [] }
  match cmdWrite word idle with
  | .next t => if busy t then t else { idle with host := .write cmdOff word :: s.host }
  | .fault _ => idle
  | .refused _ => idle

end Sys2Proof.Machine
end

