-- ==== Sys2Proof/Machine/Blocks.lean ====
section
/-! DEFINITION. The sub-blocks of spec/00_scope.md R1 at their own ports (spec/40_word_ops.md R101, R104,
spec/41_rounds.md R121, R128, R129, spec/42_hash.md R142, spec/43_expansion_keystream.md R162, R163, R167, R175). They are
stateless and "not visible to software" (92_eei_decisions.md D37): the commands reach the same functions on registers,
and the obligations say that the two agree (log entry 15). -/

namespace Sys2Proof.Machine

/-- `word_add_mod32`: inputs `a`, `b`, output `s`; no carry output and no state (R101). -/
def wordAddMod32 (a b : BitVec 32) : BitVec 32 := add32 a b

/-- `word_rotateleft`: inputs `a[31:0]`, `n[4:0]`, output `r[31:0]` (R104). -/
def wordRotateleft (a : BitVec 32) (n : BitVec 5) : BitVec 32 := rotl32 a n.toNat

/-- `salsa20_quarter_round_unit`: the chain z1, z2, z3, z0 of four `word_add_mod32`, four fixed rotations and four
XORs (R121). -/
def salsa20QuarterRoundUnit (y0 y1 y2 y3 : BitVec 32) : BitVec 32 × BitVec 32 × BitVec 32 × BitVec 32 :=
  let z1 := y1 ^^^ wordRotateleft (wordAddMod32 y0 y3) 7
  let z2 := y2 ^^^ wordRotateleft (wordAddMod32 z1 y0) 9
  let z3 := y3 ^^^ wordRotateleft (wordAddMod32 z2 z1) 13
  let z0 := y0 ^^^ wordRotateleft (wordAddMod32 z3 z2) 18
  (z0, z1, z2, z3)

/-- A value made of `k`-bit pieces, piece `i` at `[k*i+k-1 : k*i]`: words on the 512-bit bus (R128), field bytes on
`n16` (R167), and, which no rule gives, key bytes on `key0` and `key1` (log entry 17). -/
def valueOf {k : Nat} (w : Nat) : List (BitVec k) → BitVec w
  | [] => 0
  | b :: rest => b.setWidth w ||| (valueOf w rest <<< k)

/-- A state on the 512-bit bus: word `i` at `st[32*i+31 : 32*i]` (R128). -/
def packState (x : Block) : BitVec 512 := valueOf 512 x.toList

/-- Word `i` of the 512-bit bus (R128). -/
def busWord (st : BitVec 512) (i : Nat) : Word := st.extractLsb' (32 * i) 32

/-- The state on the 512-bit bus (R128). -/
def unpackState (st : BitVec 512) : Block :=
  #v[busWord st 0, busWord st 1, busWord st 2, busWord st 3, busWord st 4, busWord st 5, busWord st 6, busWord st 7,
     busWord st 8, busWord st 9, busWord st 10, busWord st 11, busWord st 12, busWord st 13, busWord st 14,
     busWord st 15]

/-- `salsa20_double_round_engine`: `st_out = doubleround(st_in)` (R129). -/
def salsa20DoubleRoundEngine (st : BitVec 512) : BitVec 512 := packState (doubleround (unpackState st))

/-- `salsa20_hash_permutation`: one double-round engine iterated 10 times (R142). -/
def salsa20HashPermutation (st : BitVec 512) : BitVec 512 := salsa20DoubleRoundEngine^[10] st

/-- `enc64(C)`: the eight bytes of the counter in the order of `CTR_FIELD_ORDER` (R163). -/
def enc64 (order : Config.FieldOrder) (c : Counter) : List Byte :=
  match order with
  | .be => [c.extractLsb' 56 8, c.extractLsb' 48 8, c.extractLsb' 40 8, c.extractLsb' 32 8,
            c.extractLsb' 24 8, c.extractLsb' 16 8, c.extractLsb' 8 8, c.extractLsb' 0 8]
  | .le => [c.extractLsb' 0 8, c.extractLsb' 8 8, c.extractLsb' 16 8, c.extractLsb' 24 8,
            c.extractLsb' 32 8, c.extractLsb' 40 8, c.extractLsb' 48 8, c.extractLsb' 56 8]

/-- `le32inv(w)`: the four bytes of a word, least significant first (R140). -/
def le32inv (w : Word) : List Byte := [lane w 0, lane w 1, lane w 2, lane w 3]

/-- The bytes of a run of words in index order (R62, R141). -/
def bytesOf (ws : List Word) : List Byte := ws.flatMap le32inv

/-- The nonce‖counter field: `nonce[0..7] ++ enc64(CTR)` (R163). -/
def nonce16 (order : Config.FieldOrder) (nonce : Vector Word 2) (c : Counter) : List Byte :=
  bytesOf nonce.toList ++ enc64 order c

/-- The four constant strings of R160 as ASCII bytes (93_implementation_defined.md G1). -/
def constantBytes (keysz : Bool) (k : Nat) : List Byte :=
  match k with
  | 0 => [0x65, 0x78, 0x70, 0x61]
  | 1 => if keysz then [0x6E, 0x64, 0x20, 0x33] else [0x6E, 0x64, 0x20, 0x31]
  | 2 => if keysz then [0x32, 0x2D, 0x62, 0x79] else [0x36, 0x2D, 0x62, 0x79]
  | _ => [0x74, 0x65, 0x20, 0x6B]

/-- The 64-byte expansion input laid out by key size (R162): `c0 ‖ key0 ‖ c1 ‖ nonce16 ‖ c2 ‖ key1 or key0 ‖ c3`. -/
def expansionBytes (key0 key1 : List Byte) (keysz : Bool) (n16 : List Byte) : List Byte :=
  constantBytes keysz 0 ++ key0 ++ constantBytes keysz 1 ++ n16 ++ constantBytes keysz 2 ++
    (if keysz then key1 else key0) ++ constantBytes keysz 3

/-- The first `n` bytes of a value whose byte `k` is at `[8k+7:8k]`. -/
def bytesOfValue {w : Nat} (v : BitVec w) : Nat → List Byte
  | 0 => []
  | n + 1 => v.extractLsb' 0 8 :: bytesOfValue (v >>> 8) n

/-- The feed-forward of two packed states: 16 `word_add_mod32` (R167). -/
def feedForward (p x : BitVec 512) : BitVec 512 :=
  packState (addBlocks (unpackState p) (unpackState x))

/-- `salsa20_expansion_block`: inputs `key0[127:0]`, `key1[127:0]`, `keysz`, `n16[127:0]`, output `blk[511:0]`, the
hash of the input block (R167). R167 places the bytes of `n16` and, by R128, of `blk`; DESIGN CHOICE: byte `k` of a key
port is at `[8k+7:8k]`, as on `n16` (log entry 17). -/
def salsa20ExpansionBlock (key0 key1 : BitVec 128) (keysz : Bool) (n16 : BitVec 128) : BitVec 512 :=
  let x := valueOf 512
    (expansionBytes (bytesOfValue key0 16) (bytesOfValue key1 16) keysz (bytesOfValue n16 16))
  feedForward (salsa20HashPermutation x) x

/-- `salsa20_keystream_generator` (R175): for block `b` of a KSGEN that starts at counter `c`, the sequencer forms
`n16 = nonce ++ enc64(c + b)` and drives one expansion block. -/
def salsa20KeystreamBlock (order : Config.FieldOrder) (key0 key1 : BitVec 128) (keysz : Bool) (nonce : Vector Word 2)
    (c : Counter) (b : Nat) : BitVec 512 :=
  salsa20ExpansionBlock key0 key1 keysz (valueOf 128 (nonce16 order nonce (ctrAdd c b)))

end Sys2Proof.Machine
end

