-- ==== Sys2Proof/Safety.lean ====
section
/-! DEFINITION. What counts as a good state and a good run, in the terms the claims use, and the spec's own tables and
checks written over numbers, apart from the machine, for the claims to compare the machine with. -/

namespace Sys2Proof.Machine

/-! ## Good states -/

/-- A command's own check at issue (R201 after BUSY and BADCMD): CTR and LEN for EXPAND and KSGEN, none for the
others. -/
def issueError : Instr → State → Option ErrCode
  | .expand, s => expandError s
  | .ksgen, s => ksgenError s
  | .nop, _ | .wadd, _ | .wxor, _ | .wrotl _, _ | .qr, _ | .colrnd, _ | .rowrnd, _ | .dblrnd, _ | .perm10, _ | .hash, _
  | .clear, _ => none

/-- KSBUF is in its canonical form and every listed byte lies in it, `0x400 .. 0x400+64*KSBUF_BLOCKS-1` (R36, R61). -/
def ksOk (s : State) : Bool :=
  s.KSBUF.wf && s.KSBUF.all fun c => decide (0x400 ≤ c.1) && decide (c.1 < ksEnd s.params)

/-- A command in flight still passes its own check ("No command can fail after acceptance", R204), DONE is 0 while it
is in flight (R30), and no command is in flight in reset (R231). -/
def pendOk (s : State) : Bool :=
  match s.PEND with
  | none => true
  | some i => (issueError i s).isNone && !s.DONE && s.rstN

/-- The invariant of the machine. -/
abbrev GoodState (s : State) : Prop := ksOk s = true ∧ pendOk s = true

/-- Every coming move of the host is one the port can express (R65). -/
def hostOk (s : State) : Bool := s.host.all HostMove.wf

/-- The host does not drive the reset pin in its coming moves. -/
def noReset (s : State) : Bool := s.host.all fun m => match m with
  | .rst _ => false
  | .write _ _ | .read _ => true

/-- The elements of R20 that a command may read or write, CFG among them. -/
def operandsOf (s : State) : (Word × Word × Word × Vector Word 4 × Block × Block) ×
    (Vector Word 8 × Vector Word 2 × Counter × Word × Bool × Memory × Config.Params) :=
  ((s.A, s.B, s.R, s.Q, s.S, s.OUT), (s.KEY, s.NONCE, s.CTR, s.KSLEN, s.KEYSZ, s.KSBUF, s.params))

/-- `n` completions of the command `i`, one after the other, each placed in flight: no acceptance (R202) is run, so
ERR stays as it is. -/
def completeTimes (i : Instr) : Nat → State → Host.Outcome State Fault Refusal
  | 0, s => .next s
  | n + 1, s =>
    match exec i { s with PEND := some i } with
    | .next t => completeTimes i n t
    | .fault f => .fault f
    | .refused r => .refused r

/-! ## The spec's tables and checks over numbers -/

/-- BADCMD over the bits of the word (R81). -/
def specBadCmd (w : Word) : Prop :=
  w.toNat % 16 ≥ 13 ∨ w.toNat / 512 ≠ 0 ∨ (w.toNat % 16 ≠ 3 ∧ w.toNat / 16 % 32 ≠ 0)

/-- `ceil(KSLEN / 64)` as rational division rounded up (R15, R170): the least number of 64-byte blocks that hold
KSLEN bytes. -/
def specBlocks (kslen : Word) (nb : Nat) : Prop := kslen.toNat ≤ 64 * nb ∧ 64 * nb < kslen.toNat + 64

/-- `check(w)` of R201 over numbers; `nb` is the block count. -/
def specCheck (w : Word) (s : State) (nb : Nat) : ErrCode → Prop
  | .busy => s.PEND ≠ none
  | .badcmd => s.PEND = none ∧ specBadCmd w
  | .ctr => s.PEND = none ∧ ¬ specBadCmd w ∧
      ((w.toNat % 16 = 0xA ∧ s.CTR.toNat > ctrMaxVal s.params.ctrMax) ∨
        (w.toNat % 16 = 0xB ∧ s.CTR.toNat + nb > ctrMaxVal s.params.ctrMax))
  | .len => s.PEND = none ∧ ¬ specBadCmd w ∧ w.toNat % 16 = 0xB ∧
      s.CTR.toNat + nb ≤ ctrMaxVal s.params.ctrMax ∧ nb > ksBlocks s.params
  | .noError => s.PEND = none ∧ ¬ specBadCmd w ∧
      (w.toNat % 16 = 0xA → s.CTR.toNat ≤ ctrMaxVal s.params.ctrMax) ∧
      (w.toNat % 16 = 0xB → s.CTR.toNat + nb ≤ ctrMaxVal s.params.ctrMax ∧ nb ≤ ksBlocks s.params)

/-- The offsets of the volatile registers (R241 with R61): A, B, R; Q; S; OUT; NONCE, CTR_LO, CTR_HI; KSLEN; KSBUF. -/
def volatileOff (p : Config.Params) (off : Nat) : Bool :=
  off == 0x018 || (0x020 ≤ off && off ≤ 0x028) || (0x030 ≤ off && off ≤ 0x03C) || (0x040 ≤ off && off ≤ 0x07C) ||
    (0x080 ≤ off && off ≤ 0x0BC) || (0x0E0 ≤ off && off ≤ 0x0EC) || (0x400 ≤ off && off < ksEnd p)

/-- A read at `off` returns `v` and changes nothing but the read data (R67). -/
def readsAs (s : State) (off : Nat) (v : Word) : Prop := busRead off s = .next { s with rdata := v }

/-- The reserved words of the map (R61): 0x01C, 0x02C, 0x0F0 to 0x3FC, and from the end of KSBUF to 0x7FC. -/
def reservedOff (p : Config.Params) (off : Nat) : Bool :=
  off == 0x01C || off == 0x02C || (0x0F0 ≤ off && off ≤ 0x3FC) || (ksEnd p ≤ off && off ≤ 0x7FC)

/-- The offsets that an idle write leaves alone (R61, R68): the RO registers ID, HWCFG, R, OUT and KSBUF, and the
reserved words. -/
def ignoredOff (off : Nat) : Bool :=
  off == 0x000 || off == 0x00C || off == 0x01C || off == 0x028 || off == 0x02C || (0x080 ≤ off && off ≤ 0x0BC) ||
    (0x0F0 ≤ off && off < 0x800)

/-- The offsets of the 32-bit RW registers (R61), each of which a write sets whole. -/
def rwOff (off : Nat) : Bool :=
  off == 0x018 || off == 0x020 || off == 0x024 || (0x030 ≤ off && off ≤ 0x03C) || (0x040 ≤ off && off ≤ 0x07C) ||
    (0x0E0 ≤ off && off ≤ 0x0EC)

/-- The equations of the quarter-round (R120) between the words of two states at four indices, over the library's
rotation: `z = QR(y)` at `(i0, i1, i2, i3)`. -/
def quarterEq (y z : Block) (i0 i1 i2 i3 : Fin 16) : Prop :=
  z[i1] = y[i1] ^^^ (y[i0] + y[i3]).rotateLeft 7 ∧
  z[i2] = y[i2] ^^^ (z[i1] + y[i0]).rotateLeft 9 ∧
  z[i3] = y[i3] ^^^ (z[i2] + z[i1]).rotateLeft 13 ∧
  z[i0] = y[i0] ^^^ (z[i3] + z[i2]).rotateLeft 18

/-- One group updated in place: the words at the four indices become their quarter-round, the others stay (R125). -/
def quarterInPlace (y : Block) (g : Fin 16 × Fin 16 × Fin 16 × Fin 16) : Block :=
  let (i0, i1, i2, i3) := g
  let (z0, z1, z2, z3) := qr y[i0] y[i1] y[i2] y[i3]
  (((y.set i0 z0).set i1 z1).set i2 z2).set i3 z3

/-- The index groups of `rowround` (R123). -/
def rowGroups : List (Fin 16 × Fin 16 × Fin 16 × Fin 16) :=
  [(0, 1, 2, 3), (5, 6, 7, 4), (10, 11, 8, 9), (15, 12, 13, 14)]

/-- The index groups of `columnround` (R124). -/
def columnGroups : List (Fin 16 × Fin 16 × Fin 16 × Fin 16) :=
  [(0, 4, 8, 12), (5, 9, 13, 1), (10, 14, 2, 6), (15, 3, 7, 11)]

/-- Bytes `0 .. 15` of the key, key0 (R26). -/
def key0Bytes (s : State) : List Byte := bytesOf [s.KEY[0], s.KEY[1], s.KEY[2], s.KEY[3]]

/-- Bytes `16 .. 31` of the key, key1 (R26). -/
def key1Bytes (s : State) : List Byte := bytesOf [s.KEY[4], s.KEY[5], s.KEY[6], s.KEY[7]]

end Sys2Proof.Machine
end

