-- ==== Sys2Proof/Certificates/Slice0/Obligations.lean ====
section
/-! DEFINITION. The statements for the provers. A statement about a next state gives the whole next state as a record
update of the state before, so every field not named in it is unchanged: that is its frame. -/

open Sys2Proof Sys2Proof.Machine

/-! ## Encoding -/

/-- Decoding an encoded command gives it back with every operand, and no other word decodes to it. -/
def Obligations.DecodeEncodeRoundTrip : Prop :=
  ∀ i : Instr, decode (encode i) = .command i ∧ decodeTableWord 32 (encode i).toNat = some i ∧
    ∀ w : Word, decode w = .command i → w = encode i

/-- R81, R84, R85: every word is one command or BADCMD, by the bits of the word alone; a BADCMD write while idle is
rejected with code 1, and only STATUS changes. -/
def Obligations.DecodeVerdictAndBadCmdRejection : Prop :=
  ∀ w : Word,
    (specBadCmd w ↔ ∃ why, decode w = .badcmd why) ∧
    (¬ specBadCmd w → ∃ i, decode w = .command i ∧ (opcode i).toNat = w.toNat % 16 ∧
      (imm5 i).toNat = w.toNat / 16 % 32) ∧
    ErrCode.badcmd.code = 1 ∧
    ∀ s : State, s.rstN = true → s.PEND = none → specBadCmd w →
      busWrite 0x004 w s =
        .next { s with DONE := false, ERR := if s.ERR = .noError then .badcmd else s.ERR }

/-- R86: the 12 non-rotate words, the 32 WROTL words, and every other word BADCMD. -/
def Obligations.LegalCommandWords : Prop :=
  ∀ w : Word,
    ((∃ i, decode w = .command i ∧ ∀ n, i ≠ .wrotl n) ↔
      w.toNat ∈ [0x0, 0x1, 0x2, 0x4, 0x5, 0x6, 0x7, 0x8, 0x9, 0xA, 0xB, 0xC]) ∧
    ((∃ n : BitVec 5, decode w = .command (.wrotl n)) ↔ ∃ n : Nat, n < 32 ∧ w.toNat = 3 + 16 * n) ∧
    ((∃ why, decode w = .badcmd why) ↔ ¬ ∃ i, decode w = .command i)

/-- R89: the table of command words, written out. -/
def Obligations.CommandWordTable : Prop :=
  decode 0x00000000 = .command .nop ∧ decode 0x00000001 = .command .wadd ∧ decode 0x00000002 = .command .wxor ∧
  (∀ n : BitVec 5, decode (BitVec.ofNat 32 (0x00000003 + 16 * n.toNat)) = .command (.wrotl n)) ∧
  decode 0x00000073 = .command (.wrotl 7) ∧ decode 0x00000093 = .command (.wrotl 9) ∧
  decode 0x000000D3 = .command (.wrotl 13) ∧ decode 0x00000123 = .command (.wrotl 18) ∧
  decode 0x00000004 = .command .qr ∧ decode 0x00000005 = .command .colrnd ∧ decode 0x00000006 = .command .rowrnd ∧
  decode 0x00000007 = .command .dblrnd ∧ decode 0x00000008 = .command .perm10 ∧ decode 0x00000009 = .command .hash ∧
  decode 0x0000000A = .command .expand ∧ decode 0x0000000B = .command .ksgen ∧ decode 0x0000000C = .command .clear

/-! ## The step and the handshake -/

/-- The engine's step is one step of the command in flight, its turn used up (R14, R19, R204; log entries 2, 4). -/
def Obligations.EngineStepRunsPendingCommand : Prop :=
  ∀ (s : State) (i : Instr), mover s = .engine → s.rstN = true → s.PEND = some i → step s = exec i (popTurn s)

/-- The host's write of a legal word to CMD of the idle machine is one step of the decoded command, the turn and the
move used up (R29, R201; log entries 2, 3, 4). -/
def Obligations.CmdWriteStepRunsDecodedCommand : Prop :=
  ∀ (s : State) (w : Word) (i : Instr) (rest : List HostMove),
    mover s = .host → s.host = .write 0x004 w :: rest → s.rstN = true → s.PEND = none → decode w = .command i →
    step s = exec i (popHost (popTurn s))

/-- The model's own placing of a command word (log entry 3): the next step runs exactly that command, to its
completion where CMD accepts it, and to its rejection where the command's own check fails. -/
def Obligations.FetchWordRunsCommand : Prop :=
  ∀ (s : State) (i : Instr),
    let idle : State := { s with PEND := none, rstN := true, turns := [] }
    let t := s.withFetchWord 32 (encode i).toNat
    (issueError i idle = none →
      t = { idle with DONE := false, ERR := .noError, PEND := some i } ∧ step t = exec i t ∧
        ∃ u, step t = .next u ∧ u.PEND = none ∧ u.DONE = true) ∧
    (∀ e, issueError i idle = some e →
      step t = .next { idle with DONE := false, ERR := if s.ERR = .noError then e else s.ERR })

/-- R201, R202, R203: a CMD write is decided by `check(w)`, which gives exactly one verdict; on an error only DONE
and ERR change, the first error kept; on acceptance DONE and ERR are cleared and PEND holds the command. -/
def Obligations.CmdWriteFollowsCheck : Prop :=
  ∀ (w : Word) (s : State) (nb : Nat), s.rstN = true → specBlocks s.KSLEN nb →
    (∃! e, specCheck w s nb e) ∧
    (∀ e, e ≠ .noError → specCheck w s nb e →
      busWrite 0x004 w s = .next { s with DONE := false, ERR := if s.ERR = .noError then e else s.ERR }) ∧
    (specCheck w s nb .noError →
      ∃ i, (opcode i).toNat = w.toNat % 16 ∧ (imm5 i).toNat = w.toNat / 16 % 32 ∧
        busWrite 0x004 w s = .next { s with DONE := false, ERR := .noError, PEND := some i })

/-- A command issued while idle is accepted unless it is EXPAND or KSGEN and fails its own check; issued while
another command is in flight it is rejected with BUSY, and the command in flight is unaffected (R202, R203). -/
def Obligations.IssueIsAcceptedOrRejected : Prop :=
  ∀ (i : Instr) (s : State),
    (s.PEND = none → i ≠ .expand → i ≠ .ksgen →
      exec i s = .next { s with DONE := false, ERR := .noError, PEND := some i }) ∧
    (∀ j, s.PEND = some j → j ≠ i →
      exec i s = .next { s with DONE := false, ERR := if s.ERR = .noError then .busy else s.ERR })

/-- R204 with its fairness: a command in flight is completed, by a step that is its meaning, after at most as many
other steps as turns are held, whatever accesses of the port the host makes while it does not drive reset (which
abandons the command, R231); its operands are still those of its acceptance; the completion has a next state, PEND is
none, DONE is 1 and ERR is left as it is. That the engine moves as soon as no turn is held is the model's choice (log
entries 2 and 4). -/
def Obligations.PendingCommandCompletes : Prop :=
  ∀ (s : State) (i : Instr), GoodState s → hostOk s = true → noReset s = true → s.PEND = some i →
    ∃ k u v, k ≤ s.turns.length ∧ Host.Core.run Sys2Proof.core k s = .next u ∧ u.PEND = some i ∧
      operandsOf u = operandsOf s ∧ mover u = .engine ∧ step u = exec i (popTurn u) ∧ step u = .next v ∧
      v.PEND = none ∧ v.DONE = true ∧ v.ERR = u.ERR

/-- A command's operand registers, and every other register a command reads or writes, cannot change between
acceptance and completion: a step that leaves the command in flight leaves them (R106, R240). -/
def Obligations.OperandsStableWhileBusy : Prop :=
  ∀ (s t : State) (i : Instr), step s = .next t → s.PEND = some i → t.PEND = some i → s.rstN = true →
    operandsOf t = operandsOf s ∧ (GoodState s → t.DONE = false)

/-! ## Word commands -/

/-- WADD completes with `R = (A + B) mod 2^32`, no flag, and nothing else but the handshake. -/
def Obligations.WaddCompletes : Prop :=
  ∀ s : State, s.PEND = some .wadd →
    ∃ r : Word, exec .wadd s = .next { s with R := r, PEND := none, DONE := true } ∧
      r.toNat = (s.A.toNat + s.B.toNat) % 2 ^ 32

/-- WXOR completes with each bit of `R` the exclusive-or of the same bits of `A` and `B`. -/
def Obligations.WxorCompletes : Prop :=
  ∀ s : State, s.PEND = some .wxor →
    ∃ r : Word, exec .wxor s = .next { s with R := r, PEND := none, DONE := true } ∧
      ∀ j : Nat, j < 32 → r.getLsbD j = (s.A.getLsbD j ^^ s.B.getLsbD j)

/-- WROTL completes with `R[j] = A[(j - n) mod 32]` for every bit `j` and every amount `n`, 0 included. -/
def Obligations.WrotlCompletes : Prop :=
  ∀ (s : State) (n : BitVec 5), s.PEND = some (.wrotl n) →
    ∃ r : Word, exec (.wrotl n) s = .next { s with R := r, PEND := none, DONE := true } ∧
      ∀ j : Nat, j < 32 → r.getLsbD j = s.A.getLsbD ((j + 32 - n.toNat) % 32)

/-! ## Rounds -/

/-- QR completes with the chain z1, z2, z3, z0 of R120 on the four Q words, all read before any is written. -/
def Obligations.QrCompletes : Prop :=
  ∀ s : State, s.PEND = some .qr →
    ∃ z0 z1 z2 z3 : Word,
      exec .qr s = .next { s with Q := #v[z0, z1, z2, z3], PEND := none, DONE := true } ∧
      z1 = s.Q[1] ^^^ (s.Q[0] + s.Q[3]).rotateLeft 7 ∧
      z2 = s.Q[2] ^^^ (z1 + s.Q[0]).rotateLeft 9 ∧
      z3 = s.Q[3] ^^^ (z2 + z1).rotateLeft 13 ∧
      z0 = s.Q[0] ^^^ (z3 + z2).rotateLeft 18

/-- The quarter-round is undone from its outputs in reverse order (R144's corner case), and is onto. -/
def Obligations.QuarterRoundIsUndone : Prop :=
  ∀ y0 y1 y2 y3 z0 z1 z2 z3 : Word,
    qr y0 y1 y2 y3 = (z0, z1, z2, z3) ↔
      y0 = z0 ^^^ (z3 + z2).rotateLeft 18 ∧ y3 = z3 ^^^ (z2 + z1).rotateLeft 13 ∧
      y2 = z2 ^^^ (z1 + y0).rotateLeft 9 ∧ y1 = z1 ^^^ (y0 + y3).rotateLeft 7

/-- COLRND completes with the four groups of R124, each reading the state before the command. -/
def Obligations.ColrndCompletes : Prop :=
  ∀ s : State, s.PEND = some .colrnd →
    ∃ z : Block, exec .colrnd s = .next { s with S := z, PEND := none, DONE := true } ∧
      quarterEq s.S z 0 4 8 12 ∧ quarterEq s.S z 5 9 13 1 ∧ quarterEq s.S z 10 14 2 6 ∧ quarterEq s.S z 15 3 7 11

/-- ROWRND completes with the four groups of R123, each reading the state before the command. -/
def Obligations.RowrndCompletes : Prop :=
  ∀ s : State, s.PEND = some .rowrnd →
    ∃ z : Block, exec .rowrnd s = .next { s with S := z, PEND := none, DONE := true } ∧
      quarterEq s.S z 0 1 2 3 ∧ quarterEq s.S z 5 6 7 4 ∧ quarterEq s.S z 10 11 8 9 ∧ quarterEq s.S z 15 12 13 14

/-- R125: updating the state in place, group by group, in any order of the four groups, computes the same round. -/
def Obligations.InPlaceRoundsAgree : Prop :=
  ∀ (y : Block) (l : List (Fin 16 × Fin 16 × Fin 16 × Fin 16)),
    (l.Perm rowGroups → l.foldl quarterInPlace y = rowround y) ∧
    (l.Perm columnGroups → l.foldl quarterInPlace y = columnround y)

/-- DBLRND completes, and has the same effect as COLRND followed by ROWRND. -/
def Obligations.DblrndIsColrndThenRowrnd : Prop :=
  ∀ s : State, ∃ t u,
    exec .colrnd { s with PEND := some .colrnd } = .next t ∧
    exec .rowrnd { t with PEND := some .rowrnd } = .next u ∧
    exec .dblrnd { s with PEND := some .dblrnd } = .next u ∧
    u = { s with S := u.S, PEND := none, DONE := true }

/-! ## Permutation and hash -/

/-- PERM10 completes, and has the same effect as ten completions of DBLRND, each placed in flight. The acceptances
between them (R202), which clear DONE and ERR, are no part of this statement. -/
def Obligations.Perm10IsTenDblrnd : Prop :=
  ∀ s : State, ∃ t,
    exec .perm10 { s with PEND := some .perm10 } = .next t ∧ completeTimes .dblrnd 10 s = .next t ∧
    t = { s with S := t.S, PEND := none, DONE := true }

/-- "PERM10 is invertible" (R144): every state of S is the permutation of exactly one. -/
def Obligations.Perm10IsBijective : Prop :=
  Function.Bijective perm10

/-- HASH completes, leaves S, and gives OUT the word-by-word sum modulo 2^32 of S and of what PERM10 makes of S. -/
def Obligations.HashCompletes : Prop :=
  ∀ s : State, ∃ t u,
    exec .perm10 { s with PEND := some .perm10 } = .next t ∧
    exec .hash { s with PEND := some .hash } = .next u ∧
    u = { s with OUT := u.OUT, PEND := none, DONE := true } ∧
    ∀ i : Fin 16, u.OUT[i].toNat = (t.S[i].toNat + s.S[i].toNat) % 2 ^ 32

/-! ## Expansion and keystream -/

/-- EXPAND completes: the bytes of S are the input block of R162 with the field of R163, OUT is its hash, CTR and
everything else is unchanged; a HASH after it leaves the same OUT. The constant bytes are log entry 13. -/
def Obligations.ExpandCompletes : Prop :=
  ∀ s : State, s.PEND = some .expand →
    ∃ x o : Block,
      exec .expand s = .next { s with S := x, OUT := o, PEND := none, DONE := true } ∧
      bytesOf x.toList =
        expansionBytes (key0Bytes s) (key1Bytes s) s.KEYSZ (nonce16 s.params.order s.NONCE s.CTR) ∧
      (∀ i : Fin 16, o[i].toNat = ((perm10 x)[i].toNat + x[i].toNat) % 2 ^ 32) ∧
      exec .hash { s with S := x, OUT := o, PEND := some .hash, DONE := false } =
        .next { s with S := x, OUT := o, PEND := none, DONE := true }

/-- R165, R171, R172, R178: the issue of EXPAND and KSGEN is rejected by the exact counter check and then the length
check, and accepted otherwise; a rejection writes nothing but DONE and ERR. -/
def Obligations.ExpandKsgenIssueChecks : Prop :=
  ∀ (s : State) (nb : Nat), s.PEND = none → specBlocks s.KSLEN nb →
    let rejected (e : ErrCode) : Host.Outcome State Fault Refusal :=
      .next { s with DONE := false, ERR := if s.ERR = .noError then e else s.ERR }
    let accepted (i : Instr) : Host.Outcome State Fault Refusal :=
      .next { s with DONE := false, ERR := .noError, PEND := some i }
    ErrCode.ctr.code = 3 ∧ ErrCode.len.code = 4 ∧
    (s.CTR.toNat > ctrMaxVal s.params.ctrMax → exec .expand s = rejected .ctr) ∧
    (s.CTR.toNat ≤ ctrMaxVal s.params.ctrMax → exec .expand s = accepted .expand) ∧
    (s.params.ctrMax = .full64 → exec .expand s = accepted .expand) ∧
    (s.params.ctrMax = .safe53 → (ctrHi s.CTR).toNat / 2 ^ 21 ≠ 0 → exec .expand s = rejected .ctr) ∧
    (s.CTR.toNat + nb > ctrMaxVal s.params.ctrMax → exec .ksgen s = rejected .ctr) ∧
    (s.CTR.toNat + nb ≤ ctrMaxVal s.params.ctrMax → nb > ksBlocks s.params → exec .ksgen s = rejected .len) ∧
    (s.CTR.toNat + nb ≤ ctrMaxVal s.params.ctrMax → nb ≤ ksBlocks s.params → exec .ksgen s = accepted .ksgen)

/-- R173, R174: KSGEN completes: block `b` of KSBUF is the hash of the expansion input at counter `C + b`, every byte
outside the `nb` blocks reads as before, `CTR = C + nb` without wrap, and everything else is unchanged. -/
def Obligations.KsgenCompletes : Prop :=
  ∀ (s : State) (nb : Nat), s.PEND = some .ksgen → s.KSBUF.wf = true → specBlocks s.KSLEN nb →
    s.CTR.toNat + nb ≤ ctrMaxVal s.params.ctrMax → nb ≤ ksBlocks s.params →
    ∃ (m : Memory) (c : Counter),
      exec .ksgen s = .next { s with KSBUF := m, CTR := c, PEND := none, DONE := true } ∧
      c.toNat = s.CTR.toNat + nb ∧ (nb = 0 → m = s.KSBUF ∧ c = s.CTR) ∧
      (∀ b : Nat, b < nb → ∀ i : Fin 16, m.word (0x400 + 4 * (16 * b + i)) =
        (hashBlock (xin s.params.order s.KEY s.KEYSZ s.NONCE (BitVec.ofNat 64 (s.CTR.toNat + b))))[i]) ∧
      (∀ a : Nat, (a < 0x400 ∨ 0x400 + 64 * nb ≤ a) → m.byte a = s.KSBUF.byte a)

/-- Block `b` of a KSGEN at `C` is the OUT of an EXPAND at `CTR = C + b` (R174's corner case). -/
def Obligations.KsgenBlockIsExpandAtCounter : Prop :=
  ∀ (s : State) (nb b : Nat), s.KSBUF.wf = true → specBlocks s.KSLEN nb → b < nb →
    ∃ t u,
      exec .ksgen { s with PEND := some .ksgen } = .next t ∧
      exec .expand { s with PEND := some .expand, CTR := BitVec.ofNat 64 (s.CTR.toNat + b) } = .next u ∧
      ∀ i : Fin 16, t.KSBUF.word (0x400 + 4 * (16 * b + i)) = u.OUT[i]

/-- R176, block addressability: a keystream from `C + k` is a slice of the keystream from `C`. -/
def Obligations.KeystreamIsBlockAddressable : Prop :=
  ∀ (s1 s2 : State) (k m n1 n2 : Nat),
    s1.PEND = some .ksgen → s2.PEND = some .ksgen → s1.KSBUF.wf = true → s2.KSBUF.wf = true →
    s2.params = s1.params → s2.KEY = s1.KEY → s2.KEYSZ = s1.KEYSZ → s2.NONCE = s1.NONCE →
    specBlocks s1.KSLEN n1 → specBlocks s2.KSLEN n2 →
    ksgenError s1 = none → ksgenError s2 = none →
    s2.CTR.toNat = s1.CTR.toNat + k → k + m ≤ n1 → m ≤ n2 →
    ∃ t1 t2, exec .ksgen s1 = .next t1 ∧ exec .ksgen s2 = .next t2 ∧
      ∀ j : Nat, j < m → ∀ i : Nat, i < 16 →
        t2.KSBUF.word (0x400 + 4 * (16 * j + i)) = t1.KSBUF.word (0x400 + 4 * (16 * (k + j) + i))

/-- R177, the prefix law: two keystreams of the same key, nonce and start counter agree on the blocks of the shorter,
byte for byte. -/
def Obligations.KeystreamPrefixLaw : Prop :=
  ∀ (s1 s2 : State) (n1 : Nat),
    s1.PEND = some .ksgen → s2.PEND = some .ksgen → s1.KSBUF.wf = true → s2.KSBUF.wf = true →
    s2.params = s1.params → s2.KEY = s1.KEY → s2.KEYSZ = s1.KEYSZ → s2.NONCE = s1.NONCE → s2.CTR = s1.CTR →
    ksgenError s1 = none → ksgenError s2 = none →
    s1.KSLEN.toNat < s2.KSLEN.toNat → specBlocks s1.KSLEN n1 →
    ∃ t1 t2, exec .ksgen s1 = .next t1 ∧ exec .ksgen s2 = .next t2 ∧
      ∀ k : Nat, k < 64 * n1 → t2.KSBUF.byte (0x400 + k) = t1.KSBUF.byte (0x400 + k)

/-- R170: the block count is the exact rounded-up quotient, within the stated bounds, with the stated examples. -/
def Obligations.BlockCountIsExact : Prop :=
  (∀ (l : Word) (nb : Nat), specBlocks l nb ↔ nb = blockCount l) ∧
  (∀ l : Word, l.toNat + 63 < 2 ^ 33 ∧ blockCount l < 2 ^ 27) ∧
  blockCount 0 = 0 ∧ blockCount 0xFFFFFFFF = 67108864 ∧ blockCount 53 = 1 ∧ blockCount 77 = 2

/-- Two KSGENs in a row with CTR not rewritten never use one expansion input twice (R179's last sentence): every
input of the second differs from every input of the first, and the inputs of one KSGEN differ among themselves. -/
def Obligations.SuccessiveKsgensNeverRepeatAnInput : Prop :=
  ∀ (s t : State) (l : Word) (b b' : Nat),
    s.PEND = some .ksgen → ksgenError s = none → exec .ksgen s = .next t →
    ksgenError { t with KSLEN := l } = none → b < blockCount s.KSLEN →
    (b' < blockCount l → inputAt t (ctrAdd t.CTR b') ≠ inputAt s (ctrAdd s.CTR b)) ∧
    (b' < blockCount s.KSLEN → b' ≠ b → inputAt s (ctrAdd s.CTR b') ≠ inputAt s (ctrAdd s.CTR b))

/-- 90_conflicts.md C1: the two counter orders give the same expansion input exactly when the counter's 8-byte
encoding is a byte palindrome. -/
def Obligations.CounterOrdersAgreeOnPalindromes : Prop :=
  ∀ (key : Vector Word 8) (keysz : Bool) (nonce : Vector Word 2) (c : Counter),
    xin .be key keysz nonce c = xin .le key keysz nonce c ↔ enc64 .be c = (enc64 .be c).reverse

/-- R26: "When `CFG.KEYSZ = 0` (128-bit key), no command reads `KEY[4..7]`": changing them changes nothing that any
step of any command leaves, but KEY itself. -/
def Obligations.ShortKeyIgnoresKey1 : Prop :=
  ∀ (i : Instr) (s : State) (k4 k5 k6 k7 : Word), s.KEYSZ = false →
    let key' : Vector Word 8 := #v[s.KEY[0], s.KEY[1], s.KEY[2], s.KEY[3], k4, k5, k6, k7]
    ∃ t t', exec i s = .next t ∧ exec i { s with KEY := key' } = .next t' ∧ t' = { t with KEY := t'.KEY }

/-! ## Control commands -/

/-- CLEAR completes: every data register and KSBUF as after reset, CFG and IE kept, ERR kept, and a second CLEAR
leaves the same state. -/
def Obligations.ClearCompletes : Prop :=
  ∀ s : State, s.PEND = some .clear →
    let t : State := { State.resetOf s.params with
      KEYSZ := s.KEYSZ, DONEIE := s.DONEIE, ERRIE := s.ERRIE, DONE := true, ERR := s.ERR, rstN := s.rstN,
      rdata := s.rdata, host := s.host, turns := s.turns, draws := s.draws }
    exec .clear s = .next t ∧ (∀ a : Nat, t.KSBUF.byte a = 0) ∧ exec .clear { t with PEND := some .clear } = .next t

/-- NOP is the handshake alone: from idle it is accepted, which clears a stale ERR, and its completion changes
nothing but PEND and DONE (R190, R191). -/
def Obligations.NopIsTheHandshakeAlone : Prop :=
  ∀ s : State,
    (s.PEND = some .nop → exec .nop s = .next { s with PEND := none, DONE := true }) ∧
    (s.PEND = none → ∃ t, exec .nop s = .next t ∧ t = { s with PEND := some .nop, DONE := false, ERR := .noError } ∧
      exec .nop t = .next { s with DONE := true, ERR := .noError })

/-! ## The register window -/

/-- R240: while BUSY every write but to STATUS and IE is dropped and records BUSY, a CMD write being a rejection; the
writes of STATUS and IE take effect. -/
def Obligations.WritesWhileBusy : Prop :=
  ∀ (s : State) (off : Nat) (v : Word), offsetOk off = true → s.rstN = true → s.PEND ≠ none →
    ErrCode.busy.code = 2 ∧
    (off ≠ 0x008 → off ≠ 0x010 →
      busWrite off v s = .next { s with
        DONE := if off = 0x004 then false else s.DONE
        ERR := if s.ERR = .noError then .busy else s.ERR }) ∧
    (off = 0x008 →
      busWrite off v s = .next { s with
        DONE := s.DONE && !v.getLsbD 1
        ERR := if v.getLsbD 3 then .noError else s.ERR }) ∧
    (off = 0x010 → busWrite off v s = .next { s with DONEIE := v.getLsbD 0, ERRIE := v.getLsbD 1 })

/-- R241: while BUSY a read of a volatile register returns the next free draw, whatever it is, and every other read
is exact; no read changes anything else. The counter of the draws is the model's own (log entry 5), and so is the
reading that the absent KSBUF words are reserved words here (log entry 16). -/
def Obligations.ReadsWhileBusy : Prop :=
  ∀ (s : State) (off : Nat), offsetOk off = true → s.rstN = true → s.PEND ≠ none →
    (volatileOff s.params off = true →
      busRead off s = .next { s with rdata := Config.freeRead s.draws, draws := s.draws + 1 }) ∧
    (volatileOff s.params off = false →
      readsAs s off
        (if off = 0x000 then 0x5A200007 else if off = 0x00C then hwcfgWord s.params
         else if off = 0x008 then statusWord s
         else if off = 0x010 then (BitVec.ofBool s.ERRIE ++ BitVec.ofBool s.DONEIE).setWidth 32
         else if off = 0x014 then (BitVec.ofBool s.KEYSZ).setWidth 32 else 0))

/-- The map of R61 for reads of the idle machine: every register at its offset, 0 at the WO and reserved words, and
no side effect (R67). -/
def Obligations.IdleReadsFollowTheMap : Prop :=
  ∀ s : State, s.rstN = true → s.PEND = none →
    readsAs s 0x000 0x5A200007 ∧ readsAs s 0x004 0 ∧ readsAs s 0x008 (statusWord s) ∧
    readsAs s 0x00C (hwcfgWord s.params) ∧
    readsAs s 0x010 ((BitVec.ofBool s.ERRIE ++ BitVec.ofBool s.DONEIE).setWidth 32) ∧
    readsAs s 0x014 ((BitVec.ofBool s.KEYSZ).setWidth 32) ∧
    readsAs s 0x018 s.KSLEN ∧ readsAs s 0x020 s.A ∧ readsAs s 0x024 s.B ∧ readsAs s 0x028 s.R ∧
    (∀ i : Fin 4, readsAs s (0x030 + 4 * i) s.Q[i]) ∧ (∀ i : Fin 16, readsAs s (0x040 + 4 * i) s.S[i]) ∧
    (∀ i : Fin 16, readsAs s (0x080 + 4 * i) s.OUT[i]) ∧ (∀ i : Fin 8, readsAs s (0x0C0 + 4 * i) 0) ∧
    (∀ i : Fin 2, readsAs s (0x0E0 + 4 * i) s.NONCE[i]) ∧
    readsAs s 0x0E8 (s.CTR.extractLsb' 0 32) ∧ readsAs s 0x0EC (s.CTR.extractLsb' 32 32) ∧
    (∀ w : Nat, w < 16 * ksBlocks s.params → readsAs s (0x400 + 4 * w) (s.KSBUF.word (0x400 + 4 * w))) ∧
    (∀ off : Nat, offsetOk off = true → reservedOff s.params off = true → readsAs s off 0)

/-- A write of a 32-bit RW register of the idle machine is accepted and a read after it returns the value written
(R69); a write of KEY sets the key word and still reads 0 (R26). -/
def Obligations.WriteThenReadReturnsTheValue : Prop :=
  ∀ (s : State) (v : Word), s.rstN = true → s.PEND = none →
    (∀ off : Nat, offsetOk off = true → rwOff off = true → ∃ t, busWrite off v s = .next t ∧ readsAs t off v) ∧
    (∀ i : Fin 8, ∃ t, busWrite (0x0C0 + 4 * i) v s = .next t ∧ t = { s with KEY := s.KEY.set i v } ∧
      readsAs t (0x0C0 + 4 * i) 0)

/-- An idle write at any offset but CMD leaves what every other offset reads, and does not touch PEND, the key (but at
KEY's offsets) or the keystream buffer. -/
def Obligations.IdleWriteLeavesOtherRegisters : Prop :=
  ∀ (s : State) (off : Nat) (v : Word), offsetOk off = true → s.rstN = true → s.PEND = none → off ≠ 0x004 →
    ∃ t, busWrite off v s = .next t ∧ t.PEND = none ∧ t.KSBUF = s.KSBUF ∧ t.params = s.params ∧
      (∀ i : Fin 8, off ≠ 0x0C0 + 4 * i → t.KEY[i] = s.KEY[i]) ∧
      ∀ (off' : Nat) (x : Word), off' ≠ off → readsAs s off' x → readsAs t off' x

/-- R68: reserved words and WO registers read 0; while idle a write to a reserved word or an RO register changes
nothing and records no error; while BUSY it records BUSY. That an absent KSBUF word reads 0 also while BUSY is the
model's reading (log entry 16). -/
def Obligations.ReservedAndReadOnlyWords : Prop :=
  ∀ (s : State) (off : Nat) (v : Word), offsetOk off = true → s.rstN = true →
    (reservedOff s.params off = true ∨ off = 0x004 ∨ (0x0C0 ≤ off ∧ off ≤ 0x0DC) → readsAs s off 0) ∧
    (s.PEND = none → ignoredOff off = true → busWrite off v s = .next s) ∧
    (s.PEND ≠ none → ignoredOff off = true →
      busWrite off v s = .next { s with ERR := if s.ERR = .noError then .busy else s.ERR })

/-- R30: the fields of STATUS as read, the two fields a write can change, the legal codes, and the reset value. -/
def Obligations.StatusFields : Prop :=
  ∀ (s : State) (v : Word),
    ((statusWord s).getLsbD 0 = true ↔ s.PEND ≠ none) ∧ (statusWord s).getLsbD 1 = s.DONE ∧
    (statusWord s).getLsbD 2 = false ∧ (statusWord s).getLsbD 3 = false ∧
    (statusWord s).toNat / 16 = s.ERR.code.toNat ∧ s.ERR.code.toNat ≤ 4 ∧
    (s.ERR.code = 0 ↔ s.ERR = .noError) ∧
    (s.rstN = true → busWrite 0x008 v s = .next { s with
      DONE := if v.getLsbD 1 then false else s.DONE
      ERR := if v.getLsbD 3 then .noError else s.ERR }) ∧
    (∀ i t, s.PEND = some i → exec i s = .next t → t.DONE = true) ∧
    (∀ t, s.rstN = true → busWrite 0x004 v s = .next t → t.DONE = false) ∧
    ∀ p, statusWord (State.resetOf p) = 0

/-- R31, R32: IE is written at any time, CFG while idle; only the implemented bits are held and read back. -/
def Obligations.IeAndCfgFields : Prop :=
  ∀ (s : State) (v : Word), s.rstN = true →
    (∃ t, busWrite 0x010 v s = .next t ∧ t = { s with DONEIE := v.getLsbD 0, ERRIE := v.getLsbD 1 } ∧
      readsAs t 0x010 (v &&& 3)) ∧
    (s.PEND = none → ∃ t, busWrite 0x014 v s = .next t ∧ t = { s with KEYSZ := v.getLsbD 0 } ∧
      readsAs t 0x014 (v &&& 1))

/-- R38, R207: the interrupt output, from the words a host reads in STATUS and IE; 0 in reset and after it; cleared by
writing DONE and ERRC and by an accepted command. -/
def Obligations.IrqIsTheLevelOfStatusAndIe : Prop :=
  (∀ s : State, s.rstN = true →
    (irq s = true ↔ ((statusWord s).getLsbD 1 = true ∧ (readReg .ie s).getLsbD 0 = true) ∨
      ((statusWord s).toNat / 16 % 16 ≠ 0 ∧ (readReg .ie s).getLsbD 1 = true))) ∧
  (∀ s : State, s.rstN = false → irq s = false) ∧
  (∀ p, irq (State.resetOf p) = false) ∧
  (∀ s t : State, s.rstN = true → busWrite 0x008 0x0000000A s = .next t → irq t = false) ∧
  (∀ (i : Instr) (s t : State), s.PEND = none → exec i s = .next t → t.PEND = some i → irq t = false)

/-- R27, R28: ID is the constant, HWCFG reports the parameters in its fields, each is read at its offset, and a write
to either is ignored. -/
def Obligations.IdAndHwcfg : Prop :=
  (idWord = 0x5A200007 ∧ ∀ p : Config.Params,
    1 ≤ ksBlocks p ∧ ksBlocks p ≤ 16 ∧
    (hwcfgWord p).toNat = ksBlocks p + (if ctrMaxVal p.ctrMax = 2 ^ 53 - 1 then 2 ^ 8 else 0) +
      (if p.order = .le then 2 ^ 9 else 0)) ∧
  ∀ (s : State) (v : Word), s.rstN = true → s.PEND = none →
    readsAs s 0x000 0x5A200007 ∧ readsAs s 0x00C (hwcfgWord s.params) ∧
    busWrite 0x000 v s = .next s ∧ busWrite 0x00C v s = .next s

/-- R35: CTR_LO and CTR_HI are the two halves of one 64-bit number; a write of one keeps the other, whatever CTR_MAX
is. -/
def Obligations.CtrHalvesArePlainBinary : Prop :=
  ∀ (s : State) (v : Word), s.rstN = true → s.PEND = none →
    (∃ c : Counter, busWrite 0x0E8 v s = .next { s with CTR := c } ∧
      c.toNat = s.CTR.toNat / 2 ^ 32 * 2 ^ 32 + v.toNat) ∧
    (∃ c : Counter, busWrite 0x0EC v s = .next { s with CTR := c } ∧
      c.toNat = v.toNat * 2 ^ 32 + s.CTR.toNat % 2 ^ 32)

/-- R36, R62: keystream byte `k` is lane `k mod 4` of the KSBUF word at `0x400 + 4*(k div 4)`; a host write of KSBUF is
ignored. -/
def Obligations.KsbufByteView : Prop :=
  ∀ (s : State) (k : Nat), s.rstN = true → s.PEND = none → k < 64 * ksBlocks s.params →
    (∃ x : Word, readsAs s (0x400 + 4 * (k / 4)) x ∧
      (s.KSBUF.byte (0x400 + k)).toNat = x.toNat / 2 ^ (8 * (k % 4)) % 256) ∧
    ∀ v : Word, busWrite (0x400 + 4 * (k / 4)) v s = .next s

/-- R140: the codec over numbers, and that the two directions are exact inverses. -/
def Obligations.LittleEndianCodec : Prop :=
  (∀ b0 b1 b2 b3 : Byte,
    (le32 b0 b1 b2 b3).toNat = b0.toNat + 256 * b1.toNat + 65536 * b2.toNat + 16777216 * b3.toNat ∧
    le32inv (le32 b0 b1 b2 b3) = [b0, b1, b2, b3]) ∧
  (∀ w : Word, ∃ b0 b1 b2 b3, le32inv w = [b0, b1, b2, b3] ∧ le32 b0 b1 b2 b3 = w ∧
    b0.toNat = w.toNat % 256 ∧ b1.toNat = w.toNat / 256 % 256 ∧ b2.toNat = w.toNat / 65536 % 256 ∧
    b3.toNat = w.toNat / 16777216)

/-! ## Reset -/

/-- R230: while `rst_n = 0` a write has no effect, a read returns 0 and irq is 0; on the first edge with `rst_n = 1`
the state is the reset state, whatever it was before. That the pin is a move of the host, and that the host's coming
moves, the turns, the read data and the draws stay, is the model's choice (log entries 3 and 7). -/
def Obligations.ResetPin : Prop :=
  ∀ s : State, s.rstN = false →
    (∀ (off : Nat) (v : Word), offsetOk off = true → busWrite off v s = .next s ∧ readsAs s off 0) ∧
    irq s = false ∧
    hostMove (.rst true) s = .next { State.resetOf s.params with
      host := s.host, turns := s.turns, rdata := s.rdata, draws := s.draws }

/-- R231: a reset while a command is in flight abandons it: no completion step follows, irq is 0 (R230), and after the
release DONE is 0 and nothing of the effect is there. The rest is the model's choice and no rule's (log entry 7): the
pin as two moves of the host; and the clause `t = { s with rstN := false, PEND := none }`, by which the command is gone
as soon as the pin is low and NO REGISTER CHANGES before the release. The spec says nothing of the registers inside
while `rst_n = 0`, so log entry 7 calls that clause unsafe. -/
def Obligations.ResetAbandonsTheCommand : Prop :=
  ∀ s : State, s.PEND ≠ none →
    ∃ t, hostMove (.rst false) s = .next t ∧ t = { s with rstN := false, PEND := none } ∧
      engineStep t = .next t ∧ irq t = false ∧
      ∃ u, hostMove (.rst true) t = .next u ∧ u.DONE = false ∧ u.PEND = none ∧
        operandsOf u = operandsOf (State.resetOf s.params)

/-- R40: every element of the table at its reset value, for every implementation, and as the host reads it. -/
def Obligations.ResetStateTable : Prop :=
  ∀ p : Config.Params,
    let s := State.resetOf p
    s.A = 0 ∧ s.B = 0 ∧ s.R = 0 ∧ (∀ i : Fin 4, s.Q[i] = 0) ∧ (∀ i : Fin 16, s.S[i] = 0) ∧
    (∀ i : Fin 16, s.OUT[i] = 0) ∧ (∀ i : Fin 8, s.KEY[i] = 0) ∧ (∀ i : Fin 2, s.NONCE[i] = 0) ∧ s.CTR = 0 ∧
    s.KSLEN = 0 ∧ s.KEYSZ = false ∧ s.DONEIE = false ∧ s.ERRIE = false ∧ statusWord s = 0 ∧ s.PEND = none ∧
    (∀ a : Nat, s.KSBUF.byte a = 0) ∧ irq s = false ∧ readsAs s 0x000 0x5A200007 ∧
    readsAs s 0x00C (hwcfgWord p) ∧
    ∀ off : Nat, offsetOk off = true → off ≠ 0x000 → off ≠ 0x00C → readsAs s off 0

/-! ## Invariants and whole-machine rules -/

/-- The invariant holds right after reset, for every implementation, with no command in flight (R40). -/
def Obligations.InvHoldsAtReset : Prop :=
  (∀ p, GoodState (State.resetOf p) ∧ (State.resetOf p).PEND = none) ∧
  GoodState State.reset ∧ State.reset.PEND = none

/-- Every step keeps the invariant: KSBUF canonical and within its bounds, a command in flight passes its own check
with DONE 0, and no command is in flight in reset. That PEND and KSBUF have these values while the pin is low, and not
only after the release, is the model's choice (log entry 7). -/
def Obligations.EveryStepKeepsInv : Prop :=
  ∀ s t : State, GoodState s → step s = .next t → GoodState t

/-- No step faults; a step is refused exactly when the host moves and its next move is an access at an offset that is
no access of the port, BUSY, idle or in reset (R65; log entry 9): no other step is refused, and every such step is; when
every coming move is an access or the pin, it has a next state. -/
def Obligations.StepStopsOnlyOnNonAccess : Prop :=
  ∀ s : State,
    (∀ f, step s ≠ .fault f) ∧
    (∀ r, step s = .refused r → mover s = .host ∧ ∃ off rest, r = .notAnAccess off ∧
      (off % 4 ≠ 0 ∨ 0x800 ≤ off) ∧ ((∃ v, s.host = .write off v :: rest) ∨ s.host = .read off :: rest)) ∧
    (∀ off rest, mover s = .host → off % 4 ≠ 0 ∨ 0x800 ≤ off →
      (∃ v, s.host = .write off v :: rest) ∨ s.host = .read off :: rest → step s = .refused (.notAnAccess off)) ∧
    (hostOk s = true → ∃ t, step s = .next t ∧ hostOk t = true)

/-- Only the named commands write R (R22), OUT (R25) and KSBUF (R36): a step that changes one is the completion of
one of them, or the release of reset. No step changes the parameters. That driving the pin low changes none of them is
the model's choice (log entry 7). -/
def Obligations.OnlyTheNamedCommandsWriteResults : Prop :=
  ∀ s t : State, step s = .next t →
    t.params = s.params ∧
    ((∃ rest, mover s = .host ∧ s.host = .rst true :: rest ∧ s.rstN = false) ∨
     ((t.R ≠ s.R → mover s = .engine ∧
        (s.PEND = some .wadd ∨ s.PEND = some .wxor ∨ (∃ n, s.PEND = some (.wrotl n)) ∨ s.PEND = some .clear)) ∧
      (t.OUT ≠ s.OUT → mover s = .engine ∧
        (s.PEND = some .hash ∨ s.PEND = some .expand ∨ s.PEND = some .clear)) ∧
      (t.KSBUF ≠ s.KSBUF → mover s = .engine ∧ (s.PEND = some .ksgen ∨ s.PEND = some .clear))))

/-- Only the host and CLEAR write A, B, KEY, NONCE and KSLEN (R22, R26, R33, R34), only they and KSGEN write CTR (R35),
and the host alone writes CFG and IE (R31, R32, R192): an engine's step changes the first only by CLEAR, CTR only by
CLEAR and KSGEN, CFG and IE never, and leaves ERR (R204). -/
def Obligations.EngineChangesKeyOnlyByClear : Prop :=
  ∀ s t : State, step s = .next t → mover s = .engine →
    (s.PEND ≠ some .clear → t.KEY = s.KEY ∧ t.NONCE = s.NONCE ∧ t.KSLEN = s.KSLEN ∧ t.A = s.A ∧ t.B = s.B) ∧
    (s.PEND ≠ some .clear → s.PEND ≠ some .ksgen → t.CTR = s.CTR) ∧
    t.KEYSZ = s.KEYSZ ∧ t.DONEIE = s.DONEIE ∧ t.ERRIE = s.ERRIE ∧ t.ERR = s.ERR

/-- The first error is kept (R203, R208): a step that changes a recorded error clears it, and does so only by a STATUS
write with ERRC, by an accepted command, or by the release of reset. That driving the pin low leaves ERR until the
release is the model's choice (log entry 7). -/
def Obligations.FirstErrorIsKept : Prop :=
  ∀ s t : State, step s = .next t → s.ERR ≠ .noError → t.ERR ≠ s.ERR →
    t.ERR = .noError ∧ mover s = .host ∧
    ((∃ v rest, s.host = .write 0x008 v :: rest ∧ v.getLsbD 3 = true) ∨
     (∃ w rest i, s.host = .write 0x004 w :: rest ∧ s.PEND = none ∧ t.PEND = some i ∧ decode w = .command i) ∨
     (∃ rest, s.host = .rst true :: rest ∧ s.rstN = false))

/-- No single host move depends on the KEY register (R26, R70): two machines that differ only in KEY answer every move
of the host alike, read data and STATUS among the rest, and still differ at most in KEY. It is about one move of the host
and the register KEY alone: a key that EXPAND has put into S is readable there (R164, R166). That a volatile read while BUSY gives
both the same draw rests on the model's form of the free value (log entry 5): R241 leaves that value open. -/
def Obligations.HostStepsDoNotRevealTheKey : Prop :=
  ∀ (s t : State) (key : Vector Word 8), step s = .next t → mover s = .host →
    ∃ t', step { s with KEY := key } = .next t' ∧ t' = { t with KEY := t'.KEY }

/-! ## The sub-blocks at their ports -/

/-- R121, R128, R129, R142: the quarter-round unit's chain, the packing of a state on the 512-bit bus, by words and by
bytes, and the double-round engine and the 10-iteration permutation at their ports. The sub-blocks as functions are
log entry 15. -/
def Obligations.RoundEnginesAtTheirPorts : Prop :=
  (∀ y0 y1 y2 y3 : Word, salsa20QuarterRoundUnit y0 y1 y2 y3 = qr y0 y1 y2 y3) ∧
  ∀ x : Block,
    unpackState (packState x) = x ∧
    (∀ i : Fin 16, (packState x).extractLsb' (32 * i) 32 = x[i]) ∧
    (∀ k : Nat, k < 64 → (bytesOf x.toList)[k]? = some ((packState x).extractLsb' (8 * k) 8)) ∧
    salsa20DoubleRoundEngine (packState x) = packState (rowround (columnround x)) ∧
    salsa20HashPermutation (packState x) = packState (perm10 x)

/-- The expansion block at its ports (R167), over the bytes of R162 and R163, gives the block that EXPAND leaves in
OUT; the keystream generator (R175) drives it for each block, and writing its blocks in any order gives the KSBUF that
KSGEN leaves. The sub-blocks as functions are log entry 15, and the place of the key bytes on the key ports is the
model's choice (log entry 17). -/
def Obligations.ExpansionAndKeystreamAtTheirPorts : Prop :=
  ∀ s : State,
    let key0 : BitVec 128 := valueOf 128 (key0Bytes s)
    let key1 : BitVec 128 := valueOf 128 (key1Bytes s)
    (s.PEND = some .expand →
      ∃ t, exec .expand s = .next t ∧
        packState t.OUT =
          salsa20ExpansionBlock key0 key1 s.KEYSZ (valueOf 128 (nonce16 s.params.order s.NONCE s.CTR))) ∧
    (s.PEND = some .ksgen → s.KSBUF.wf = true → ∀ l : List Nat, l.Perm (List.range (blockCount s.KSLEN)) →
      ∃ t, exec .ksgen s = .next t ∧
        t.KSBUF = l.foldl (fun m b => m.putBlock b
          (unpackState (salsa20KeystreamBlock s.params.order key0 key1 s.KEYSZ s.NONCE s.CTR b))) s.KSBUF)
end

