-- ==== Sys2Proof/Laws/Blocks.lean ====
section
/-! SUPPORT. The packing of words and bytes in the ports of the sub-blocks: each piece is read back where it was put,
and unpacking undoes packing. -/

namespace Sys2Proof.Machine

/-- Each bit of a packed value is the bit of its piece. -/
theorem getLsbD_valueOf {k w : Nat} (hk : 0 < k) (l : List (BitVec k)) (hw : k * l.length ≤ w) (j : Nat) :
    (valueOf w l).getLsbD j = (l.getD (j / k) 0).getLsbD (j % k) := by
  induction l generalizing j with
  | nil => simp [valueOf]
  | cons b rest ih =>
    have hm : k * (b :: rest).length = k + k * rest.length := by simp [Nat.mul_add, Nat.add_comm]
    rw [valueOf, BitVec.getLsbD_or, BitVec.getLsbD_setWidth, BitVec.getLsbD_shiftLeft]
    by_cases hj : j < k
    · rw [Nat.div_eq_of_lt hj, Nat.mod_eq_of_lt hj]
      simp [hj, show j < w by omega]
    · have h1 : j / k = (j - k) / k + 1 := by
        rw [← Nat.add_div_right _ hk]; congr 1; omega
      have h2 : j % k = (j - k) % k := by
        rw [← Nat.add_mod_right (j - k)]; congr 1; omega
      rw [h1, h2, List.getD_cons_succ, ← ih (by omega), BitVec.getLsbD_of_ge b j (by omega)]
      by_cases hjw : j < w
      · simp [hj, hjw]
      · rw [ih (by omega)]
        have h3 : rest.length ≤ (j - k) / k := by
          rw [Nat.le_div_iff_mul_le hk, Nat.mul_comm]; omega
        rw [List.getD_eq_default _ _ h3]
        simp [hjw]

/-- Each piece of a packed value. -/
theorem extractLsb'_valueOf {k w : Nat} (hk : 0 < k) (l : List (BitVec k)) (hw : k * l.length ≤ w) (i : Nat) :
    (valueOf w l).extractLsb' (k * i) k = l.getD i 0 := by
  apply BitVec.eq_of_getLsbD_eq
  intro j hj
  rw [BitVec.getLsbD_extractLsb', getLsbD_valueOf hk l hw, Nat.mul_add_div hk, Nat.mul_add_mod,
    Nat.div_eq_of_lt hj, Nat.mod_eq_of_lt hj, Nat.add_zero]
  simp [hj]

/-- Word `i` of a packed state (R128). -/
theorem busWord_packState (x : Block) (i : Nat) (hi : i < 16) : busWord (packState x) i = x[i] := by
  have hi' : i < x.toList.length := by simpa using hi
  rw [busWord, packState, extractLsb'_valueOf (by decide) _ (by simp), List.getD_eq_getElem _ _ hi']
  exact Vector.getElem_toList hi'

/-- Unpacking undoes packing. -/
@[simp] theorem unpackState_packState (x : Block) : unpackState (packState x) = x := by
  apply Vector.ext
  intro i hi
  rw [← busWord_packState x i hi]
  interval_cases i <;> rfl

end Sys2Proof.Machine
end

