-- ==== Sys2Proof/Laws/Decode.lean ====
section
/-! SUPPORT. The fields of a command word as numbers, and what the opcode map answers. -/

namespace Sys2Proof

theorem opField_toNat (w : Word) : (opField w).toNat = w.toNat % 16 := by
  simp [opField]

theorem imm5Field_toNat (w : Word) : (imm5Field w).toNat = w.toNat / 16 % 32 := by
  simp [imm5Field, Nat.shiftRight_eq_div_pow]

theorem rsvField_toNat (w : Word) : (rsvField w).toNat = w.toNat / 512 := by
  have := w.isLt
  simp [rsvField, Nat.shiftRight_eq_div_pow]
  omega

/-- The map gives a command exactly at its opcode, WROTL with the amount asked for (R83). -/
theorem opcodeMap_eq_some (op : BitVec 4) (imm : BitVec 5) (i : Instr) :
    opcodeMap op imm = some i ↔ (opcode i = op ∧ (op = 3 → imm5 i = imm)) := by
  cases i with
  | wrotl n => revert op imm n; decide
  | _ => revert op imm; decide

/-- The reserved opcodes are those from 13 on (R84). -/
theorem opcodeMap_eq_none (op : BitVec 4) (imm : BitVec 5) : opcodeMap op imm = none ↔ 13 ≤ op.toNat := by
  revert op imm
  decide

/-- "IMM5 must be 0 for every other opcode" (R80). -/
theorem imm5_of_opcode_ne {i : Instr} (h : opcode i ≠ 3) : imm5 i = 0 := by
  cases i <;> first | rfl | exact absurd rfl h

end Sys2Proof
end

