-- ==== Sys2Proof/Laws/Memory.lean ====
section
/-! SUPPORT. The laws of the keystream buffer's bytes and words: a read after a write, that every operation keeps the
canonical form and the bounds, and that canonical memories with equal bytes are equal. -/

namespace Sys2Proof.Machine

/-! ## Bytes -/

@[simp] theorem Memory.byte_nil (a : Nat) : Memory.byte [] a = 0 := rfl

@[simp] theorem Memory.wf_nil : Memory.wf [] = true := rfl

theorem Memory.wf_cons {k : Nat} {b : Byte} {m : Memory} :
    Memory.wf ((k, b) :: m) = true ↔ b ≠ 0 ∧ Memory.above k m = true ∧ Memory.wf m = true := by
  simp [Memory.wf, and_assoc]

/-- Below every listed address a memory reads 0. -/
theorem Memory.byte_of_above {k a : Nat} {m : Memory} (h : Memory.above k m = true) (ha : a ≤ k) :
    m.byte a = 0 := by
  induction m with
  | nil => rfl
  | cons c rest ih =>
    simp only [Memory.above, List.all_cons, Bool.and_eq_true, decide_eq_true_eq] at h
    rw [Memory.byte, if_neg (by omega)]
    exact ih h.2

theorem Memory.above_mono {k l : Nat} {m : Memory} (h : Memory.above k m = true) (hl : l ≤ k) :
    Memory.above l m = true := by
  simp only [Memory.above, List.all_eq_true, decide_eq_true_eq] at h ⊢
  intro c hc
  have := h c hc
  omega

theorem Memory.above_iff {k : Nat} {m : Memory} : Memory.above k m = true ↔ ∀ c ∈ m, k < c.1 := by
  simp only [Memory.above, List.all_eq_true, decide_eq_true_eq]

/-- A write adds at most the cell written. -/
theorem Memory.mem_put {m : Memory} {a : Nat} {b : Byte} {c : Host.Cell} (h : c ∈ m.put a b) :
    c = (a, b) ∨ c ∈ m := by
  induction m with
  | nil =>
    rw [Memory.put] at h
    split at h
    · cases h
    · exact .inl (List.mem_singleton.1 h)
  | cons d rest ih =>
    rw [Memory.put] at h
    split at h
    · split at h
      · exact .inr h
      · exact List.mem_cons.1 h
    · split at h
      · split at h
        · exact .inr (List.mem_cons_of_mem _ h)
        · exact (List.mem_cons.1 h).imp_right (List.mem_cons_of_mem _)
      · rcases List.mem_cons.1 h with rfl | h
        · exact .inr (List.mem_cons_self ..)
        · exact (ih h).imp_right (List.mem_cons_of_mem _)

theorem Memory.above_put {k a : Nat} {b : Byte} {m : Memory} (h : Memory.above k m = true) (ha : k < a) :
    Memory.above k (m.put a b) = true := by
  rw [Memory.above_iff] at h ⊢
  intro c hc
  rcases Memory.mem_put hc with rfl | hc
  · exact ha
  · exact h c hc

/-- A write keeps the canonical form. -/
theorem Memory.wf_put {m : Memory} (h : m.wf = true) (a : Nat) (b : Byte) : (m.put a b).wf = true := by
  induction m with
  | nil =>
    rw [Memory.put]
    split
    · rfl
    · rename_i hb; exact Memory.wf_cons.2 ⟨hb, rfl, rfl⟩
  | cons c rest ih =>
    obtain ⟨k, c⟩ := c
    obtain ⟨hc, hk, hr⟩ := Memory.wf_cons.1 h
    rw [Memory.put]
    split
    · rename_i hak
      split
      · exact h
      · rename_i hb
        refine Memory.wf_cons.2 ⟨hb, ?_, h⟩
        simpa [Memory.above, hak] using Memory.above_mono hk (Nat.le_of_lt hak)
    · split
      · split
        · exact hr
        · rename_i hak hb
          subst hak
          exact Memory.wf_cons.2 ⟨hb, hk, hr⟩
      · exact Memory.wf_cons.2 ⟨hc, Memory.above_put hk (by omega), ih hr⟩

/-- A read after a write: the byte written at its address, every other byte as before. -/
theorem Memory.byte_put {m : Memory} (h : m.wf = true) (a : Nat) (b : Byte) (x : Nat) :
    (m.put a b).byte x = if x = a then b else m.byte x := by
  induction m with
  | nil =>
    rw [Memory.put]
    split
    · simp_all
    · simp only [Memory.byte, eq_comm]
  | cons c rest ih =>
    obtain ⟨k, c⟩ := c
    obtain ⟨hc, hk, hr⟩ := Memory.wf_cons.1 h
    rw [Memory.put]
    split
    · rename_i hak
      have hx : Memory.byte ((k, c) :: rest) a = 0 :=
        Memory.byte_of_above (k := a)
          (by simpa [Memory.above, hak] using Memory.above_mono hk (Nat.le_of_lt hak)) le_rfl
      split
      · rename_i hb
        by_cases hx' : x = a
        · rw [if_pos hx', hx', hx, hb]
        · rw [if_neg hx']
      · simp only [Memory.byte, eq_comm (a := a)]
    · split
      · rename_i hak
        subst hak
        have h0 : Memory.byte rest a = 0 := Memory.byte_of_above hk le_rfl
        split
        · rename_i hb
          by_cases hx : x = a
          · simp [hx, h0, hb]
          · rw [if_neg hx, Memory.byte, if_neg (Ne.symm hx)]
        · by_cases hx : x = a
          · simp [Memory.byte, hx]
          · simp [Memory.byte, hx, Ne.symm hx]
      · rename_i h1 h2
        by_cases hx : k = x
        · subst hx
          simp [Memory.byte, Ne.symm h2]
        · simp only [Memory.byte, if_neg hx]
          exact ih hr

/-- A canonical memory's listed addresses are the ones it reads non-zero at. -/
theorem Memory.mem_iff_byte {m : Memory} (h : m.wf = true) (a : Nat) (b : Byte) :
    (a, b) ∈ m ↔ b ≠ 0 ∧ m.byte a = b := by
  induction m with
  | nil => exact ⟨fun h => absurd h List.not_mem_nil, fun h => absurd h.2.symm h.1⟩
  | cons c rest ih =>
    obtain ⟨k, c⟩ := c
    obtain ⟨hc, hk, hr⟩ := Memory.wf_cons.1 h
    rw [List.mem_cons, ih hr, Memory.byte]
    by_cases hx : k = a
    · subst hx
      rw [if_pos rfl, Memory.byte_of_above hk le_rfl]
      constructor
      · rintro (h | ⟨h1, h2⟩)
        · simp only [Prod.mk.injEq, true_and] at h; subst h; exact ⟨hc, rfl⟩
        · exact absurd h2.symm h1
      · rintro ⟨-, rfl⟩; exact .inl rfl
    · have hne : (a, b) ≠ (k, c) := fun e => hx (congrArg Prod.fst e).symm
      rw [if_neg hx, or_iff_right hne]

/-- Equal memories are equal data: canonical memories with the same bytes are the same list. -/
theorem Memory.ext_byte {m n : Memory} (hm : m.wf = true) (hn : n.wf = true)
    (h : ∀ a, m.byte a = n.byte a) : m = n := by
  induction m generalizing n with
  | nil =>
    cases n with
    | nil => rfl
    | cons c rest =>
      obtain ⟨k, c⟩ := c
      have := (Memory.mem_iff_byte hn k c).1 (by simp)
      rw [← h k] at this
      simp only [Memory.byte_nil] at this
      exact absurd this.2.symm this.1
  | cons c rest ih =>
    obtain ⟨k, c⟩ := c
    obtain ⟨hc, hk, hr⟩ := Memory.wf_cons.1 hm
    cases n with
    | nil =>
      have := (Memory.mem_iff_byte hm k c).1 (by simp)
      rw [h k] at this
      simp only [Memory.byte_nil] at this
      exact absurd this.2.symm this.1
    | cons d rest' =>
      obtain ⟨l, d⟩ := d
      obtain ⟨hd, hl, hr'⟩ := Memory.wf_cons.1 hn
      have hkl : k = l := by
        rcases Nat.lt_trichotomy k l with hlt | he | hlt
        · have h1 := h k
          rw [Memory.byte, if_pos rfl, Memory.byte, if_neg (by omega),
            Memory.byte_of_above hl (by omega)] at h1
          exact absurd h1 hc
        · exact he
        · have h1 := h l
          rw [Memory.byte, if_neg (by omega), Memory.byte, if_pos rfl,
            Memory.byte_of_above hk (by omega)] at h1
          exact absurd h1.symm hd
      subst hkl
      have hcd : c = d := by simpa [Memory.byte] using h k
      subst hcd
      congr 1
      refine ih hr hr' fun a => ?_
      by_cases ha : k = a
      · subst ha
        rw [Memory.byte_of_above hk le_rfl, Memory.byte_of_above hl le_rfl]
      · have := h a
        simpa only [Memory.byte, if_neg ha] using this

/-! ## Words and blocks -/

theorem Memory.wf_putWord {m : Memory} (h : m.wf = true) (a : Nat) (w : Word) : (m.putWord a w).wf = true :=
  Memory.wf_put (Memory.wf_put (Memory.wf_put (Memory.wf_put h _ _) _ _) _ _) _ _

/-- The four bytes of a stored word are its lanes (R62); every other byte is as before. -/
theorem Memory.byte_putWord {m : Memory} (h : m.wf = true) (a : Nat) (w : Word) (x : Nat) :
    (m.putWord a w).byte x = if a ≤ x ∧ x < a + 4 then lane w (x - a) else m.byte x := by
  have h0 := Memory.wf_put h a (lane w 0)
  have h1 := Memory.wf_put h0 (a + 1) (lane w 1)
  have h2 := Memory.wf_put h1 (a + 2) (lane w 2)
  rw [Memory.putWord, Memory.byte_put h2, Memory.byte_put h1, Memory.byte_put h0, Memory.byte_put h]
  by_cases hx : a ≤ x ∧ x < a + 4
  · rw [if_pos hx]
    obtain ⟨j, rfl⟩ : ∃ j, x = a + j := ⟨x - a, by omega⟩
    have hj : j = 0 ∨ j = 1 ∨ j = 2 ∨ j = 3 := by omega
    rcases hj with rfl | rfl | rfl | rfl <;> simp
  · rw [if_neg hx, if_neg (by omega), if_neg (by omega), if_neg (by omega), if_neg (by omega)]

theorem le32_lanes (w : Word) : le32 (lane w 0) (lane w 1) (lane w 2) (lane w 3) = w := by
  apply BitVec.eq_of_getLsbD_eq
  intro i hi
  simp only [le32, lane, BitVec.getLsbD_append, BitVec.getLsbD_extractLsb']
  split
  · simp [*]
  · split
    · rename_i h1 h2
      have : 8 + (i - 8) = i := by omega
      simp [h2, this]
    · split
      · rename_i h1 h2 h3
        have : 16 + (i - 8 - 8) = i := by omega
        simp [h3, this]
      · rename_i h1 h2 h3
        have h4 : i - 8 - 8 - 8 < 8 := by omega
        have : 24 + (i - 8 - 8 - 8) = i := by omega
        simp [h4, this]

/-- A word read after the store of a word. -/
theorem Memory.word_putWord_same {m : Memory} (h : m.wf = true) (a : Nat) (w : Word) :
    (m.putWord a w).word a = w := by
  simp only [Memory.word, Memory.byte_putWord h]
  simp [le32_lanes]

theorem Memory.wf_putWords {m : Memory} (h : m.wf = true) (w : Nat) (l : List Word) :
    (m.putWords w l).wf = true := by
  induction l generalizing m w with
  | nil => exact h
  | cons v rest ih => exact ih (Memory.wf_putWord h _ _) _

/-- Outside the words stored, every byte is as before. -/
theorem Memory.byte_putWords_outside {m : Memory} (h : m.wf = true) (w : Nat) (l : List Word) (x : Nat)
    (hx : x < ksAddr w ∨ ksAddr (w + l.length) ≤ x) : (m.putWords w l).byte x = m.byte x := by
  induction l generalizing m w with
  | nil => rfl
  | cons v rest ih =>
    simp only [ksAddr, List.length_cons] at hx
    rw [Memory.putWords, ih (Memory.wf_putWord h _ _) _ (by simp only [ksAddr]; omega),
      Memory.byte_putWord h, if_neg (by simp only [ksAddr]; omega)]

/-- Word `j` of a stored list is read back. -/
theorem Memory.word_putWords {m : Memory} (h : m.wf = true) (w : Nat) (l : List Word) (j : Nat)
    (hj : j < l.length) : (m.putWords w l).word (ksAddr (w + j)) = l[j] := by
  induction l generalizing m w j with
  | nil => simp at hj
  | cons v rest ih =>
    rw [Memory.putWords]
    cases j with
    | zero =>
      have hw := Memory.wf_putWord h (ksAddr w) v
      have hb : ∀ i < 4, ((m.putWord (ksAddr w) v).putWords (w + 1) rest).byte (ksAddr w + i) =
          (m.putWord (ksAddr w) v).byte (ksAddr w + i) := fun i hi =>
        Memory.byte_putWords_outside hw _ _ _ (.inl (by simp only [ksAddr]; omega))
      have h0 := hb 0 (by omega)
      simp only [Nat.add_zero] at h0
      simp only [Nat.add_zero, List.getElem_cons_zero, Memory.word, h0, hb 1 (by omega), hb 2 (by omega),
        hb 3 (by omega)]
      exact Memory.word_putWord_same h (ksAddr w) v
    | succ j =>
      have := ih (Memory.wf_putWord h (ksAddr w) v) (w + 1) j (by simpa using hj)
      simpa [Nat.add_assoc, Nat.add_comm 1 j] using this

theorem Memory.wf_putBlock {m : Memory} (h : m.wf = true) (b : Nat) (x : Block) : (m.putBlock b x).wf = true :=
  Memory.wf_putWords h _ _

/-- Outside block `b`, every byte is as before. -/
theorem Memory.byte_putBlock_outside {m : Memory} (h : m.wf = true) (b : Nat) (x : Block) (a : Nat)
    (ha : a < 0x400 + 64 * b ∨ 0x400 + 64 * (b + 1) ≤ a) : (m.putBlock b x).byte a = m.byte a := by
  refine Memory.byte_putWords_outside h _ _ _ ?_
  simp only [ksAddr, Vector.length_toList]
  omega

/-- Word `i` of block `b` is read back. -/
theorem Memory.word_putBlock {m : Memory} (h : m.wf = true) (b : Nat) (x : Block) (i : Fin 16) :
    (m.putBlock b x).word (ksAddr (16 * b + i)) = x[i] := by
  have := Memory.word_putWords h (16 * b) x.toList i (by simp)
  simpa [Memory.putBlock] using this

/-- Outside block `b`, every word is as before. -/
theorem Memory.word_putBlock_outside {m : Memory} (h : m.wf = true) (b : Nat) (x : Block) (w : Nat)
    (hw : w < 16 * b ∨ 16 * (b + 1) ≤ w) : (m.putBlock b x).word (ksAddr w) = m.word (ksAddr w) := by
  simp only [Memory.word, ksAddr]
  rw [Memory.byte_putBlock_outside h _ _ _ (by omega), Memory.byte_putBlock_outside h _ _ _ (by omega),
    Memory.byte_putBlock_outside h _ _ _ (by omega), Memory.byte_putBlock_outside h _ _ _ (by omega)]

/-! ## Bounds -/

/-- Every listed address lies in `lo .. hi-1`. -/
def Memory.within (m : Memory) (lo hi : Nat) : Bool := m.all fun c => decide (lo ≤ c.1) && decide (c.1 < hi)

theorem Memory.within_iff {m : Memory} {lo hi : Nat} :
    m.within lo hi = true ↔ ∀ c ∈ m, lo ≤ c.1 ∧ c.1 < hi := by
  simp only [Memory.within, List.all_eq_true, Bool.and_eq_true, decide_eq_true_eq]

theorem Memory.within_put {m : Memory} {lo hi : Nat} (h : m.within lo hi = true) (a : Nat) (b : Byte)
    (ha : lo ≤ a ∧ a < hi) : (m.put a b).within lo hi = true := by
  rw [Memory.within_iff] at h ⊢
  intro c hc
  rcases Memory.mem_put hc with rfl | hc
  · exact ha
  · exact h c hc

theorem Memory.within_putWord {m : Memory} {lo hi : Nat} (h : m.within lo hi = true) (a : Nat) (w : Word)
    (ha : lo ≤ a ∧ a + 3 < hi) : (m.putWord a w).within lo hi = true :=
  within_put (within_put (within_put (within_put h _ _ (by omega)) _ _ (by omega)) _ _ (by omega)) _ _ (by omega)

theorem Memory.within_putWords {m : Memory} {lo hi : Nat} (h : m.within lo hi = true) (w : Nat) (l : List Word)
    (ha : lo ≤ ksAddr w ∧ ksAddr (w + l.length) ≤ hi) : (m.putWords w l).within lo hi = true := by
  induction l generalizing m w with
  | nil => exact h
  | cons v rest ih =>
    simp only [ksAddr, List.length_cons] at ha
    exact ih (within_putWord h _ _ (by simp only [ksAddr]; omega)) _ (by simp only [ksAddr]; omega)

/-- A block stored in KSBUF lies in KSBUF. -/
theorem Memory.within_putBlock {m : Memory} {n : Nat} (h : m.within 0x400 (0x400 + 64 * n) = true) (b : Nat)
    (x : Block) (hb : b < n) : (m.putBlock b x).within 0x400 (0x400 + 64 * n) = true := by
  refine within_putWords h _ _ ?_
  simp only [ksAddr, Vector.length_toList]
  omega

end Sys2Proof.Machine
end

