-- ==== Sys2Proof/Laws/Keystream.lean ====
section
/-! SUPPORT. What KSGEN leaves in KSBUF: the block it writes at each index, and every byte it leaves alone. -/

namespace Sys2Proof.Machine

theorem wf_ksWrite {s : State} (h : s.KSBUF.wf = true) (n : Nat) : (ksWrite s n).wf = true := by
  induction n with
  | zero => exact h
  | succ n ih => exact Memory.wf_putBlock ih _ _

/-- Outside the `n` blocks written, every byte is as before. -/
theorem byte_ksWrite_outside {s : State} (h : s.KSBUF.wf = true) (n a : Nat)
    (ha : a < 0x400 ∨ 0x400 + 64 * n ≤ a) : (ksWrite s n).byte a = s.KSBUF.byte a := by
  induction n with
  | zero => rfl
  | succ n ih =>
    rw [ksWrite, Memory.byte_putBlock_outside (wf_ksWrite h n) _ _ _ (by omega), ih (by omega)]

/-- Word `i` of block `b` is word `i` of the hash of the expansion input at `C + b` (R174). -/
theorem word_ksWrite {s : State} (h : s.KSBUF.wf = true) (n b : Nat) (hb : b < n) (i : Fin 16) :
    (ksWrite s n).word (ksAddr (16 * b + i)) = (hashBlock (inputAt s (ctrAdd s.CTR b)))[i] := by
  induction n with
  | zero => omega
  | succ n ih =>
    rw [ksWrite]
    by_cases hbn : b = n
    · subst hbn; exact Memory.word_putBlock (wf_ksWrite h b) _ _ _
    · rw [Memory.word_putBlock_outside (wf_ksWrite h n) _ _ _ (by omega), ih (by omega)]

/-- The blocks written lie in a KSBUF of at least that many blocks. -/
theorem within_ksWrite {s : State} {k : Nat} (h : s.KSBUF.within 0x400 (0x400 + 64 * k) = true) (n : Nat)
    (hn : n ≤ k) : (ksWrite s n).within 0x400 (0x400 + 64 * k) = true := by
  induction n with
  | zero => exact h
  | succ n ih => exact Memory.within_putBlock (ih (by omega)) _ _ (by omega)

/-- A counter that passes the check of R171 does not wrap (R173). -/
theorem toNat_ctrAdd {c : Counter} {b : Nat} (h : c.toNat + b < 2 ^ 64) : (ctrAdd c b).toNat = c.toNat + b := by
  simp only [ctrAdd, BitVec.toNat_ofNat]
  exact Nat.mod_eq_of_lt h

@[simp] theorem ctrAdd_zero (c : Counter) : ctrAdd c 0 = c := by simp [ctrAdd]

theorem ctrAdd_ctrAdd (c : Counter) (a b : Nat) : ctrAdd (ctrAdd c a) b = ctrAdd c (a + b) := by
  apply BitVec.eq_of_toNat_eq
  simp only [ctrAdd, BitVec.toNat_ofNat]
  omega

theorem ctrMaxVal_lt (m : Config.CtrMax) : ctrMaxVal m < 2 ^ 64 := by
  cases m <;> simp [ctrMaxVal]

end Sys2Proof.Machine
end

