-- ==== Sys2Proof/Laws/State.lean ====
section
/-! SUPPORT. One lemma per field per named update of the state, true by rfl: what the update sets, and that every other
field is as before. -/

namespace Sys2Proof.Machine

/-! ## Acceptance (R202) -/

@[simp] theorem accept_params (i : Instr) (s : State) : (accept i s).params = s.params := rfl
@[simp] theorem accept_A (i : Instr) (s : State) : (accept i s).A = s.A := rfl
@[simp] theorem accept_B (i : Instr) (s : State) : (accept i s).B = s.B := rfl
@[simp] theorem accept_R (i : Instr) (s : State) : (accept i s).R = s.R := rfl
@[simp] theorem accept_Q (i : Instr) (s : State) : (accept i s).Q = s.Q := rfl
@[simp] theorem accept_S (i : Instr) (s : State) : (accept i s).S = s.S := rfl
@[simp] theorem accept_OUT (i : Instr) (s : State) : (accept i s).OUT = s.OUT := rfl
@[simp] theorem accept_KEY (i : Instr) (s : State) : (accept i s).KEY = s.KEY := rfl
@[simp] theorem accept_NONCE (i : Instr) (s : State) : (accept i s).NONCE = s.NONCE := rfl
@[simp] theorem accept_CTR (i : Instr) (s : State) : (accept i s).CTR = s.CTR := rfl
@[simp] theorem accept_KSLEN (i : Instr) (s : State) : (accept i s).KSLEN = s.KSLEN := rfl
@[simp] theorem accept_KEYSZ (i : Instr) (s : State) : (accept i s).KEYSZ = s.KEYSZ := rfl
@[simp] theorem accept_DONEIE (i : Instr) (s : State) : (accept i s).DONEIE = s.DONEIE := rfl
@[simp] theorem accept_ERRIE (i : Instr) (s : State) : (accept i s).ERRIE = s.ERRIE := rfl
@[simp] theorem accept_DONE (i : Instr) (s : State) : (accept i s).DONE = false := rfl
@[simp] theorem accept_ERR (i : Instr) (s : State) : (accept i s).ERR = .noError := rfl
@[simp] theorem accept_KSBUF (i : Instr) (s : State) : (accept i s).KSBUF = s.KSBUF := rfl
@[simp] theorem accept_PEND (i : Instr) (s : State) : (accept i s).PEND = some i := rfl
@[simp] theorem accept_rstN (i : Instr) (s : State) : (accept i s).rstN = s.rstN := rfl
@[simp] theorem accept_rdata (i : Instr) (s : State) : (accept i s).rdata = s.rdata := rfl
@[simp] theorem accept_host (i : Instr) (s : State) : (accept i s).host = s.host := rfl
@[simp] theorem accept_turns (i : Instr) (s : State) : (accept i s).turns = s.turns := rfl
@[simp] theorem accept_draws (i : Instr) (s : State) : (accept i s).draws = s.draws := rfl

/-! ## Rejection (R203) -/

@[simp] theorem reject_params (e : ErrCode) (s : State) : (reject e s).params = s.params := rfl
@[simp] theorem reject_A (e : ErrCode) (s : State) : (reject e s).A = s.A := rfl
@[simp] theorem reject_B (e : ErrCode) (s : State) : (reject e s).B = s.B := rfl
@[simp] theorem reject_R (e : ErrCode) (s : State) : (reject e s).R = s.R := rfl
@[simp] theorem reject_Q (e : ErrCode) (s : State) : (reject e s).Q = s.Q := rfl
@[simp] theorem reject_S (e : ErrCode) (s : State) : (reject e s).S = s.S := rfl
@[simp] theorem reject_OUT (e : ErrCode) (s : State) : (reject e s).OUT = s.OUT := rfl
@[simp] theorem reject_KEY (e : ErrCode) (s : State) : (reject e s).KEY = s.KEY := rfl
@[simp] theorem reject_NONCE (e : ErrCode) (s : State) : (reject e s).NONCE = s.NONCE := rfl
@[simp] theorem reject_CTR (e : ErrCode) (s : State) : (reject e s).CTR = s.CTR := rfl
@[simp] theorem reject_KSLEN (e : ErrCode) (s : State) : (reject e s).KSLEN = s.KSLEN := rfl
@[simp] theorem reject_KEYSZ (e : ErrCode) (s : State) : (reject e s).KEYSZ = s.KEYSZ := rfl
@[simp] theorem reject_DONEIE (e : ErrCode) (s : State) : (reject e s).DONEIE = s.DONEIE := rfl
@[simp] theorem reject_ERRIE (e : ErrCode) (s : State) : (reject e s).ERRIE = s.ERRIE := rfl
@[simp] theorem reject_DONE (e : ErrCode) (s : State) : (reject e s).DONE = false := rfl
@[simp] theorem reject_ERR (e : ErrCode) (s : State) : (reject e s).ERR = if s.ERR = .noError then e else s.ERR := rfl
@[simp] theorem reject_KSBUF (e : ErrCode) (s : State) : (reject e s).KSBUF = s.KSBUF := rfl
@[simp] theorem reject_PEND (e : ErrCode) (s : State) : (reject e s).PEND = s.PEND := rfl
@[simp] theorem reject_rstN (e : ErrCode) (s : State) : (reject e s).rstN = s.rstN := rfl
@[simp] theorem reject_rdata (e : ErrCode) (s : State) : (reject e s).rdata = s.rdata := rfl
@[simp] theorem reject_host (e : ErrCode) (s : State) : (reject e s).host = s.host := rfl
@[simp] theorem reject_turns (e : ErrCode) (s : State) : (reject e s).turns = s.turns := rfl
@[simp] theorem reject_draws (e : ErrCode) (s : State) : (reject e s).draws = s.draws := rfl

/-! ## Completion (R204 steps 2 and 3) -/

@[simp] theorem complete_params (s : State) : (complete s).params = s.params := rfl
@[simp] theorem complete_A (s : State) : (complete s).A = s.A := rfl
@[simp] theorem complete_B (s : State) : (complete s).B = s.B := rfl
@[simp] theorem complete_R (s : State) : (complete s).R = s.R := rfl
@[simp] theorem complete_Q (s : State) : (complete s).Q = s.Q := rfl
@[simp] theorem complete_S (s : State) : (complete s).S = s.S := rfl
@[simp] theorem complete_OUT (s : State) : (complete s).OUT = s.OUT := rfl
@[simp] theorem complete_KEY (s : State) : (complete s).KEY = s.KEY := rfl
@[simp] theorem complete_NONCE (s : State) : (complete s).NONCE = s.NONCE := rfl
@[simp] theorem complete_CTR (s : State) : (complete s).CTR = s.CTR := rfl
@[simp] theorem complete_KSLEN (s : State) : (complete s).KSLEN = s.KSLEN := rfl
@[simp] theorem complete_KEYSZ (s : State) : (complete s).KEYSZ = s.KEYSZ := rfl
@[simp] theorem complete_DONEIE (s : State) : (complete s).DONEIE = s.DONEIE := rfl
@[simp] theorem complete_ERRIE (s : State) : (complete s).ERRIE = s.ERRIE := rfl
@[simp] theorem complete_DONE (s : State) : (complete s).DONE = true := rfl
@[simp] theorem complete_ERR (s : State) : (complete s).ERR = s.ERR := rfl
@[simp] theorem complete_KSBUF (s : State) : (complete s).KSBUF = s.KSBUF := rfl
@[simp] theorem complete_PEND (s : State) : (complete s).PEND = none := rfl
@[simp] theorem complete_rstN (s : State) : (complete s).rstN = s.rstN := rfl
@[simp] theorem complete_rdata (s : State) : (complete s).rdata = s.rdata := rfl
@[simp] theorem complete_host (s : State) : (complete s).host = s.host := rfl
@[simp] theorem complete_turns (s : State) : (complete s).turns = s.turns := rfl
@[simp] theorem complete_draws (s : State) : (complete s).draws = s.draws := rfl

/-! ## The error record (R203, R240) -/

@[simp] theorem recordErr_params (e : ErrCode) (s : State) : (recordErr e s).params = s.params := rfl
@[simp] theorem recordErr_A (e : ErrCode) (s : State) : (recordErr e s).A = s.A := rfl
@[simp] theorem recordErr_B (e : ErrCode) (s : State) : (recordErr e s).B = s.B := rfl
@[simp] theorem recordErr_R (e : ErrCode) (s : State) : (recordErr e s).R = s.R := rfl
@[simp] theorem recordErr_Q (e : ErrCode) (s : State) : (recordErr e s).Q = s.Q := rfl
@[simp] theorem recordErr_S (e : ErrCode) (s : State) : (recordErr e s).S = s.S := rfl
@[simp] theorem recordErr_OUT (e : ErrCode) (s : State) : (recordErr e s).OUT = s.OUT := rfl
@[simp] theorem recordErr_KEY (e : ErrCode) (s : State) : (recordErr e s).KEY = s.KEY := rfl
@[simp] theorem recordErr_NONCE (e : ErrCode) (s : State) : (recordErr e s).NONCE = s.NONCE := rfl
@[simp] theorem recordErr_CTR (e : ErrCode) (s : State) : (recordErr e s).CTR = s.CTR := rfl
@[simp] theorem recordErr_KSLEN (e : ErrCode) (s : State) : (recordErr e s).KSLEN = s.KSLEN := rfl
@[simp] theorem recordErr_KEYSZ (e : ErrCode) (s : State) : (recordErr e s).KEYSZ = s.KEYSZ := rfl
@[simp] theorem recordErr_DONEIE (e : ErrCode) (s : State) : (recordErr e s).DONEIE = s.DONEIE := rfl
@[simp] theorem recordErr_ERRIE (e : ErrCode) (s : State) : (recordErr e s).ERRIE = s.ERRIE := rfl
@[simp] theorem recordErr_DONE (e : ErrCode) (s : State) : (recordErr e s).DONE = s.DONE := rfl
@[simp] theorem recordErr_ERR (e : ErrCode) (s : State) : (recordErr e s).ERR = if s.ERR = .noError then e else s.ERR := rfl
@[simp] theorem recordErr_KSBUF (e : ErrCode) (s : State) : (recordErr e s).KSBUF = s.KSBUF := rfl
@[simp] theorem recordErr_PEND (e : ErrCode) (s : State) : (recordErr e s).PEND = s.PEND := rfl
@[simp] theorem recordErr_rstN (e : ErrCode) (s : State) : (recordErr e s).rstN = s.rstN := rfl
@[simp] theorem recordErr_rdata (e : ErrCode) (s : State) : (recordErr e s).rdata = s.rdata := rfl
@[simp] theorem recordErr_host (e : ErrCode) (s : State) : (recordErr e s).host = s.host := rfl
@[simp] theorem recordErr_turns (e : ErrCode) (s : State) : (recordErr e s).turns = s.turns := rfl
@[simp] theorem recordErr_draws (e : ErrCode) (s : State) : (recordErr e s).draws = s.draws := rfl

/-! ## A write of STATUS (R30) -/

@[simp] theorem writeStatus_params (v : Word) (s : State) : (writeStatus v s).params = s.params := rfl
@[simp] theorem writeStatus_A (v : Word) (s : State) : (writeStatus v s).A = s.A := rfl
@[simp] theorem writeStatus_B (v : Word) (s : State) : (writeStatus v s).B = s.B := rfl
@[simp] theorem writeStatus_R (v : Word) (s : State) : (writeStatus v s).R = s.R := rfl
@[simp] theorem writeStatus_Q (v : Word) (s : State) : (writeStatus v s).Q = s.Q := rfl
@[simp] theorem writeStatus_S (v : Word) (s : State) : (writeStatus v s).S = s.S := rfl
@[simp] theorem writeStatus_OUT (v : Word) (s : State) : (writeStatus v s).OUT = s.OUT := rfl
@[simp] theorem writeStatus_KEY (v : Word) (s : State) : (writeStatus v s).KEY = s.KEY := rfl
@[simp] theorem writeStatus_NONCE (v : Word) (s : State) : (writeStatus v s).NONCE = s.NONCE := rfl
@[simp] theorem writeStatus_CTR (v : Word) (s : State) : (writeStatus v s).CTR = s.CTR := rfl
@[simp] theorem writeStatus_KSLEN (v : Word) (s : State) : (writeStatus v s).KSLEN = s.KSLEN := rfl
@[simp] theorem writeStatus_KEYSZ (v : Word) (s : State) : (writeStatus v s).KEYSZ = s.KEYSZ := rfl
@[simp] theorem writeStatus_DONEIE (v : Word) (s : State) : (writeStatus v s).DONEIE = s.DONEIE := rfl
@[simp] theorem writeStatus_ERRIE (v : Word) (s : State) : (writeStatus v s).ERRIE = s.ERRIE := rfl
@[simp] theorem writeStatus_DONE (v : Word) (s : State) : (writeStatus v s).DONE = (s.DONE && !v.getLsbD 1) := rfl
@[simp] theorem writeStatus_ERR (v : Word) (s : State) : (writeStatus v s).ERR = if v.getLsbD 3 then .noError else s.ERR := rfl
@[simp] theorem writeStatus_KSBUF (v : Word) (s : State) : (writeStatus v s).KSBUF = s.KSBUF := rfl
@[simp] theorem writeStatus_PEND (v : Word) (s : State) : (writeStatus v s).PEND = s.PEND := rfl
@[simp] theorem writeStatus_rstN (v : Word) (s : State) : (writeStatus v s).rstN = s.rstN := rfl
@[simp] theorem writeStatus_rdata (v : Word) (s : State) : (writeStatus v s).rdata = s.rdata := rfl
@[simp] theorem writeStatus_host (v : Word) (s : State) : (writeStatus v s).host = s.host := rfl
@[simp] theorem writeStatus_turns (v : Word) (s : State) : (writeStatus v s).turns = s.turns := rfl
@[simp] theorem writeStatus_draws (v : Word) (s : State) : (writeStatus v s).draws = s.draws := rfl

/-! ## A write of IE (R31) -/

@[simp] theorem writeIe_params (v : Word) (s : State) : (writeIe v s).params = s.params := rfl
@[simp] theorem writeIe_A (v : Word) (s : State) : (writeIe v s).A = s.A := rfl
@[simp] theorem writeIe_B (v : Word) (s : State) : (writeIe v s).B = s.B := rfl
@[simp] theorem writeIe_R (v : Word) (s : State) : (writeIe v s).R = s.R := rfl
@[simp] theorem writeIe_Q (v : Word) (s : State) : (writeIe v s).Q = s.Q := rfl
@[simp] theorem writeIe_S (v : Word) (s : State) : (writeIe v s).S = s.S := rfl
@[simp] theorem writeIe_OUT (v : Word) (s : State) : (writeIe v s).OUT = s.OUT := rfl
@[simp] theorem writeIe_KEY (v : Word) (s : State) : (writeIe v s).KEY = s.KEY := rfl
@[simp] theorem writeIe_NONCE (v : Word) (s : State) : (writeIe v s).NONCE = s.NONCE := rfl
@[simp] theorem writeIe_CTR (v : Word) (s : State) : (writeIe v s).CTR = s.CTR := rfl
@[simp] theorem writeIe_KSLEN (v : Word) (s : State) : (writeIe v s).KSLEN = s.KSLEN := rfl
@[simp] theorem writeIe_KEYSZ (v : Word) (s : State) : (writeIe v s).KEYSZ = s.KEYSZ := rfl
@[simp] theorem writeIe_DONEIE (v : Word) (s : State) : (writeIe v s).DONEIE = v.getLsbD 0 := rfl
@[simp] theorem writeIe_ERRIE (v : Word) (s : State) : (writeIe v s).ERRIE = v.getLsbD 1 := rfl
@[simp] theorem writeIe_DONE (v : Word) (s : State) : (writeIe v s).DONE = s.DONE := rfl
@[simp] theorem writeIe_ERR (v : Word) (s : State) : (writeIe v s).ERR = s.ERR := rfl
@[simp] theorem writeIe_KSBUF (v : Word) (s : State) : (writeIe v s).KSBUF = s.KSBUF := rfl
@[simp] theorem writeIe_PEND (v : Word) (s : State) : (writeIe v s).PEND = s.PEND := rfl
@[simp] theorem writeIe_rstN (v : Word) (s : State) : (writeIe v s).rstN = s.rstN := rfl
@[simp] theorem writeIe_rdata (v : Word) (s : State) : (writeIe v s).rdata = s.rdata := rfl
@[simp] theorem writeIe_host (v : Word) (s : State) : (writeIe v s).host = s.host := rfl
@[simp] theorem writeIe_turns (v : Word) (s : State) : (writeIe v s).turns = s.turns := rfl
@[simp] theorem writeIe_draws (v : Word) (s : State) : (writeIe v s).draws = s.draws := rfl

/-! ## The turn used up -/

@[simp] theorem popTurn_params (s : State) : (popTurn s).params = s.params := rfl
@[simp] theorem popTurn_A (s : State) : (popTurn s).A = s.A := rfl
@[simp] theorem popTurn_B (s : State) : (popTurn s).B = s.B := rfl
@[simp] theorem popTurn_R (s : State) : (popTurn s).R = s.R := rfl
@[simp] theorem popTurn_Q (s : State) : (popTurn s).Q = s.Q := rfl
@[simp] theorem popTurn_S (s : State) : (popTurn s).S = s.S := rfl
@[simp] theorem popTurn_OUT (s : State) : (popTurn s).OUT = s.OUT := rfl
@[simp] theorem popTurn_KEY (s : State) : (popTurn s).KEY = s.KEY := rfl
@[simp] theorem popTurn_NONCE (s : State) : (popTurn s).NONCE = s.NONCE := rfl
@[simp] theorem popTurn_CTR (s : State) : (popTurn s).CTR = s.CTR := rfl
@[simp] theorem popTurn_KSLEN (s : State) : (popTurn s).KSLEN = s.KSLEN := rfl
@[simp] theorem popTurn_KEYSZ (s : State) : (popTurn s).KEYSZ = s.KEYSZ := rfl
@[simp] theorem popTurn_DONEIE (s : State) : (popTurn s).DONEIE = s.DONEIE := rfl
@[simp] theorem popTurn_ERRIE (s : State) : (popTurn s).ERRIE = s.ERRIE := rfl
@[simp] theorem popTurn_DONE (s : State) : (popTurn s).DONE = s.DONE := rfl
@[simp] theorem popTurn_ERR (s : State) : (popTurn s).ERR = s.ERR := rfl
@[simp] theorem popTurn_KSBUF (s : State) : (popTurn s).KSBUF = s.KSBUF := rfl
@[simp] theorem popTurn_PEND (s : State) : (popTurn s).PEND = s.PEND := rfl
@[simp] theorem popTurn_rstN (s : State) : (popTurn s).rstN = s.rstN := rfl
@[simp] theorem popTurn_rdata (s : State) : (popTurn s).rdata = s.rdata := rfl
@[simp] theorem popTurn_host (s : State) : (popTurn s).host = s.host := rfl
@[simp] theorem popTurn_turns (s : State) : (popTurn s).turns = s.turns.tail := rfl
@[simp] theorem popTurn_draws (s : State) : (popTurn s).draws = s.draws := rfl

/-! ## The host's move made -/

@[simp] theorem popHost_params (s : State) : (popHost s).params = s.params := rfl
@[simp] theorem popHost_A (s : State) : (popHost s).A = s.A := rfl
@[simp] theorem popHost_B (s : State) : (popHost s).B = s.B := rfl
@[simp] theorem popHost_R (s : State) : (popHost s).R = s.R := rfl
@[simp] theorem popHost_Q (s : State) : (popHost s).Q = s.Q := rfl
@[simp] theorem popHost_S (s : State) : (popHost s).S = s.S := rfl
@[simp] theorem popHost_OUT (s : State) : (popHost s).OUT = s.OUT := rfl
@[simp] theorem popHost_KEY (s : State) : (popHost s).KEY = s.KEY := rfl
@[simp] theorem popHost_NONCE (s : State) : (popHost s).NONCE = s.NONCE := rfl
@[simp] theorem popHost_CTR (s : State) : (popHost s).CTR = s.CTR := rfl
@[simp] theorem popHost_KSLEN (s : State) : (popHost s).KSLEN = s.KSLEN := rfl
@[simp] theorem popHost_KEYSZ (s : State) : (popHost s).KEYSZ = s.KEYSZ := rfl
@[simp] theorem popHost_DONEIE (s : State) : (popHost s).DONEIE = s.DONEIE := rfl
@[simp] theorem popHost_ERRIE (s : State) : (popHost s).ERRIE = s.ERRIE := rfl
@[simp] theorem popHost_DONE (s : State) : (popHost s).DONE = s.DONE := rfl
@[simp] theorem popHost_ERR (s : State) : (popHost s).ERR = s.ERR := rfl
@[simp] theorem popHost_KSBUF (s : State) : (popHost s).KSBUF = s.KSBUF := rfl
@[simp] theorem popHost_PEND (s : State) : (popHost s).PEND = s.PEND := rfl
@[simp] theorem popHost_rstN (s : State) : (popHost s).rstN = s.rstN := rfl
@[simp] theorem popHost_rdata (s : State) : (popHost s).rdata = s.rdata := rfl
@[simp] theorem popHost_host (s : State) : (popHost s).host = s.host.tail := rfl
@[simp] theorem popHost_turns (s : State) : (popHost s).turns = s.turns := rfl
@[simp] theorem popHost_draws (s : State) : (popHost s).draws = s.draws := rfl

end Sys2Proof.Machine
end

