-- ==== Sys2Proof/Laws/Handshake.lean ====
section
/-! SUPPORT. The handshake said once: what one step of a command can do (`command_cases`), the effect of each command
at its completion, and that every command keeps the surroundings of the machine. -/

namespace Sys2Proof.Machine

/-- The effect of a command (R83), one for each meaning. -/
def effectOf : Instr → State → State
  | .nop => nopEffect
  | .wadd => waddEffect
  | .wxor => wxorEffect
  | .wrotl n => wrotlEffect n
  | .qr => qrEffect
  | .colrnd => colrndEffect
  | .rowrnd => rowrndEffect
  | .dblrnd => dblrndEffect
  | .perm10 => perm10Effect
  | .hash => hashEffect
  | .expand => expandEffect
  | .ksgen => ksgenEffect
  | .clear => clearEffect

/-- Every meaning is one step of its command: its own check and its effect in the shared handshake. -/
theorem exec_eq_command (i : Instr) (s : State) : exec i s = command i (issueError i) (effectOf i) s := by
  cases i <;> rfl

/-- Idle, and the command's own check fails: rejected (R203). -/
theorem exec_rejected {i : Instr} {s : State} {e : ErrCode} (hp : s.PEND = none) (he : issueError i s = some e) :
    exec i s = .next (reject e s) := by
  simp only [exec_eq_command, command, hp, he]

/-- Idle, and the command's own check passes: accepted (R202). -/
theorem exec_accepted {i : Instr} {s : State} (hp : s.PEND = none) (he : issueError i s = none) :
    exec i s = .next (accept i s) := by
  simp only [exec_eq_command, command, hp, he]

/-- In flight: completed (R204). -/
theorem exec_completes {i : Instr} {s : State} (hp : s.PEND = some i) :
    exec i s = .next (complete (effectOf i s)) := by
  simp [exec_eq_command, command, hp]

/-- Another command in flight: rejected with BUSY (R201). -/
theorem exec_busy {i j : Instr} {s : State} (hp : s.PEND = some j) (hij : j ≠ i) :
    exec i s = .next (reject .busy s) := by
  simp [exec_eq_command, command, hp, hij]

/-- Everything one step of a command can do. -/
theorem exec_cases {i : Instr} {s t : State} (h : exec i s = .next t) :
    (s.PEND = none ∧ ∃ e, issueError i s = some e ∧ t = reject e s) ∨
    (s.PEND = none ∧ issueError i s = none ∧ t = accept i s) ∨
    (s.PEND = some i ∧ t = complete (effectOf i s)) ∨
    (∃ j, s.PEND = some j ∧ j ≠ i ∧ t = reject .busy s) := by
  rcases hp : s.PEND with _ | j
  · rcases he : issueError i s with _ | e
    · rw [exec_accepted hp he] at h
      exact .inr (.inl ⟨rfl, rfl, (Host.Outcome.next.inj h).symm⟩)
    · rw [exec_rejected hp he] at h
      exact .inl ⟨rfl, e, rfl, (Host.Outcome.next.inj h).symm⟩
  · by_cases hij : j = i
    · subst hij
      rw [exec_completes hp] at h
      exact .inr (.inr (.inl ⟨rfl, (Host.Outcome.next.inj h).symm⟩))
    · rw [exec_busy hp hij] at h
      exact .inr (.inr (.inr ⟨j, rfl, hij, (Host.Outcome.next.inj h).symm⟩))

/-- No command stops: every step of every command has a next state. -/
theorem exec_next (i : Instr) (s : State) : ∃ t, exec i s = .next t := by
  rcases hp : s.PEND with _ | j
  · rcases he : issueError i s with _ | e
    · exact ⟨_, exec_accepted hp he⟩
    · exact ⟨_, exec_rejected hp he⟩
  · by_cases hij : j = i
    · exact ⟨_, exec_completes (hij ▸ hp)⟩
    · exact ⟨_, exec_busy hp hij⟩

/-! ## What no effect touches -/

/-- The fields no command's effect writes: the parameters, CFG, IE, STATUS, PEND, the pin, the read data and the
model's own fields (R83: "Every accepted command also writes STATUS", by the handshake alone). -/
theorem effectOf_frame (i : Instr) (s : State) :
    let t := effectOf i s
    t.params = s.params ∧ t.KEYSZ = s.KEYSZ ∧ t.DONEIE = s.DONEIE ∧ t.ERRIE = s.ERRIE ∧ t.DONE = s.DONE ∧
      t.ERR = s.ERR ∧ t.PEND = s.PEND ∧ t.rstN = s.rstN ∧ t.rdata = s.rdata ∧ t.host = s.host ∧ t.turns = s.turns ∧
      t.draws = s.draws := by
  cases i <;> exact ⟨rfl, rfl, rfl, rfl, rfl, rfl, rfl, rfl, rfl, rfl, rfl, rfl⟩

/-- Only KSGEN and CLEAR write KSBUF (R36). -/
theorem effectOf_KSBUF {i : Instr} {s : State} (h1 : i ≠ .ksgen) (h2 : i ≠ .clear) :
    (effectOf i s).KSBUF = s.KSBUF := by
  cases i <;> first | rfl | exact absurd rfl h1 | exact absurd rfl h2

/-- Every effect keeps KSBUF good; KSGEN does because its check passed (R172). -/
theorem ksOk_effectOf {i : Instr} {s : State} (h : ksOk s = true) (hc : issueError i s = none) :
    ksOk (effectOf i s) = true := by
  by_cases h2 : i = .clear
  · subst h2; rfl
  by_cases h1 : i = .ksgen
  · subst h1
    simp only [ksOk, Bool.and_eq_true] at h ⊢
    refine ⟨wf_ksWrite h.1 _, ?_⟩
    refine within_ksWrite (k := ksBlocks s.params) h.2 _ ?_
    simp only [issueError, ksgenError] at hc
    split at hc
    · cases hc
    · split at hc
      · cases hc
      · omega
  · have hp := (effectOf_frame i s).1
    simp only [ksOk, effectOf_KSBUF h1 h2, hp] at h ⊢
    exact h

end Sys2Proof.Machine
end

