-- ==== Sys2Proof/Laws/Operands.lean ====
section
/-! SUPPORT. The word primitives over numbers and bits: the rotation, the bytes of a word and the halves of the
counter. -/

namespace Sys2Proof.Machine

/-- The rotation of R104 is the library's, for every amount of five bits. -/
theorem rotl32_eq_rotateLeft (a : Word) (n : Nat) (h : n < 32) : rotl32 a n = a.rotateLeft n := by
  rw [rotl32, BitVec.rotateLeft, Nat.mod_eq_of_lt h]
  split
  · subst_vars
    apply BitVec.eq_of_getLsbD_eq
    intro i hi
    simp [BitVec.rotateLeftAux]
  · rfl

/-- `le32(b0, b1, b2, b3) = b0 + 2^8*b1 + 2^16*b2 + 2^24*b3` (R140). -/
theorem le32_toNat (b0 b1 b2 b3 : Byte) :
    (le32 b0 b1 b2 b3).toNat = b0.toNat + 256 * b1.toNat + 65536 * b2.toNat + 16777216 * b3.toNat := by
  rw [le32]
  simp only [BitVec.toNat_append]
  rw [← Nat.shiftLeft_add_eq_or_of_lt b2.isLt, ← Nat.shiftLeft_add_eq_or_of_lt b1.isLt,
    ← Nat.shiftLeft_add_eq_or_of_lt b0.isLt]
  simp only [Nat.shiftLeft_eq]
  omega

/-- Lane `j` of a word as a digit to the base 256 (R62). -/
theorem lane_toNat (w : Word) (j : Nat) : (lane w j).toNat = w.toNat / 2 ^ (8 * j) % 256 := by
  simp [lane, Nat.shiftRight_eq_div_pow]

/-- The lanes of a word made of four bytes are those bytes. -/
theorem lane_le32 (b0 b1 b2 b3 : Byte) :
    lane (le32 b0 b1 b2 b3) 0 = b0 ∧ lane (le32 b0 b1 b2 b3) 1 = b1 ∧ lane (le32 b0 b1 b2 b3) 2 = b2 ∧
      lane (le32 b0 b1 b2 b3) 3 = b3 := by
  have := b0.isLt
  have := b1.isLt
  have := b2.isLt
  have := b3.isLt
  refine ⟨?_, ?_, ?_, ?_⟩ <;> apply BitVec.eq_of_toNat_eq <;> rw [lane_toNat, le32_toNat] <;> simp <;> omega

theorem ctrLo_toNat (c : Counter) : (ctrLo c).toNat = c.toNat % 2 ^ 32 := by
  simp [ctrLo]

theorem ctrHi_toNat (c : Counter) : (ctrHi c).toNat = c.toNat / 2 ^ 32 := by
  have := c.isLt
  simp [ctrHi, Nat.shiftRight_eq_div_pow]
  omega

theorem ctrOf_toNat (hi lo : Word) : (ctrOf hi lo).toNat = hi.toNat * 2 ^ 32 + lo.toNat := by
  rw [ctrOf, BitVec.toNat_append, ← Nat.shiftLeft_add_eq_or_of_lt lo.isLt, Nat.shiftLeft_eq]

@[simp] theorem ctrLo_ctrOf (hi lo : Word) : ctrLo (ctrOf hi lo) = lo := by
  apply BitVec.eq_of_toNat_eq
  have := lo.isLt
  rw [ctrLo_toNat, ctrOf_toNat]
  omega

@[simp] theorem ctrHi_ctrOf (hi lo : Word) : ctrHi (ctrOf hi lo) = hi := by
  apply BitVec.eq_of_toNat_eq
  have := lo.isLt
  rw [ctrHi_toNat, ctrOf_toNat]
  omega

/-- `nb` is the least number of 64-byte blocks that hold `kslen` bytes. -/
theorem blockCount_bounds (kslen : Word) :
    kslen.toNat ≤ 64 * blockCount kslen ∧ 64 * blockCount kslen < kslen.toNat + 64 := by
  simp only [blockCount]
  omega

end Sys2Proof.Machine
end

