-- ==== Sys2Proof/Laws/PerInstr.lean ====
section
/-! SUPPORT. Statements for all commands, one lemma per constructor. The family EncodeFields: the fields of the
command word the encoder writes (spec/30_encoding.md R80, R83). -/

namespace Sys2Proof.Laws.EncodeFields

/-- The word of a command has its opcode in [3:0], its IMM5 in [8:4] and 0 in [31:9]. -/
def Statement (i : Instr) : Prop :=
  opField (encode i) = opcode i ∧ imm5Field (encode i) = imm5 i ∧ rsvField (encode i) = 0

theorem nop : Statement .nop := by unfold Statement; decide
theorem wadd : Statement .wadd := by unfold Statement; decide
theorem wxor : Statement .wxor := by unfold Statement; decide

theorem wrotl (n : BitVec 5) : Statement (.wrotl n) := by
  unfold Statement
  revert n
  decide

theorem qr : Statement .qr := by unfold Statement; decide
theorem colrnd : Statement .colrnd := by unfold Statement; decide
theorem rowrnd : Statement .rowrnd := by unfold Statement; decide
theorem dblrnd : Statement .dblrnd := by unfold Statement; decide
theorem perm10 : Statement .perm10 := by unfold Statement; decide
theorem hash : Statement .hash := by unfold Statement; decide
theorem expand : Statement .expand := by unfold Statement; decide
theorem ksgen : Statement .ksgen := by unfold Statement; decide
theorem clear : Statement .clear := by unfold Statement; decide

end Sys2Proof.Laws.EncodeFields
end

