-- ==== Sys2Proof/Laws/Rounds.lean ====
section
/-! SUPPORT. One group updated in place: the words it writes, the words it leaves, and that two groups with no common
index can be updated in either order (spec/41_rounds.md R125). -/

namespace Sys2Proof.Machine

/-- The four indices of a group. -/
def groupIndices (g : Fin 16 × Fin 16 × Fin 16 × Fin 16) : List (Fin 16) := [g.1, g.2.1, g.2.2.1, g.2.2.2]

theorem block_set_same (y : Block) (i : Fin 16) (a : Word) : (y.set i a)[i] = a := by
  simp

theorem block_set_ne (y : Block) {i j : Fin 16} (a : Word) (h : i ≠ j) : (y.set i a)[j] = y[j] := by
  have : (i : Nat) ≠ j := fun e => h (Fin.ext e)
  rw [Fin.getElem_fin, Fin.getElem_fin, Vector.getElem_set_ne (h := this)]

/-- A word outside the group stays. -/
theorem quarterInPlace_outside (y : Block) (g : Fin 16 × Fin 16 × Fin 16 × Fin 16) (k : Fin 16)
    (h : k ∉ groupIndices g) : (quarterInPlace y g)[k] = y[k] := by
  obtain ⟨i0, i1, i2, i3⟩ := g
  simp only [groupIndices, List.mem_cons, List.not_mem_nil, or_false, not_or] at h
  obtain ⟨h0, h1, h2, h3⟩ := h
  simp only [quarterInPlace]
  rw [block_set_ne _ _ (Ne.symm h3), block_set_ne _ _ (Ne.symm h2), block_set_ne _ _ (Ne.symm h1),
    block_set_ne _ _ (Ne.symm h0)]

/-- The words of the group, its four indices being different, become their quarter-round. -/
theorem quarterInPlace_inside (y : Block) (i0 i1 i2 i3 : Fin 16) (h : [i0, i1, i2, i3].Nodup) :
    let z := quarterInPlace y (i0, i1, i2, i3)
    (z[i0], z[i1], z[i2], z[i3]) = qr y[i0] y[i1] y[i2] y[i3] := by
  simp only [List.nodup_cons, List.mem_cons, List.not_mem_nil, or_false, not_or, not_false_eq_true,
    List.nodup_nil, and_true] at h
  obtain ⟨⟨h01, h02, h03⟩, ⟨h12, h13⟩, h23⟩ := h
  simp only [quarterInPlace]
  rw [block_set_same, block_set_ne _ _ (Ne.symm h03), block_set_ne _ _ (Ne.symm h02), block_set_ne _ _ (Ne.symm h01),
    block_set_same, block_set_ne _ _ (Ne.symm h13), block_set_ne _ _ (Ne.symm h12), block_set_same,
    block_set_ne _ _ (Ne.symm h23), block_set_same]

end Sys2Proof.Machine
end

