-- ==== Sys2Proof/Laws/Step.lean ====
section
/-! SUPPORT. The bus, the pin and the step said once: what a host access can do (`busWrite_cases`, `busRead_cases`)
and what a step can do (`step_cases`). -/

namespace Sys2Proof.Machine

/-- Everything a write to CMD can do: the rejections of R201 before the command's own check, or the issue of the
decoded command. -/
theorem cmdWrite_cases {w : Word} {s t : State} (h : cmdWrite w s = .next t) :
    (busy s = true ∧ t = reject .busy s) ∨
    (busy s = false ∧ (∃ why, decode w = .badcmd why) ∧ t = reject .badcmd s) ∨
    (busy s = false ∧ ∃ i, decode w = .command i ∧ exec i s = .next t) := by
  rw [cmdWrite] at h
  split at h
  · rename_i hb; exact .inl ⟨hb, (Host.Outcome.next.inj h).symm⟩
  · rename_i hb
    have hb' : busy s = false := by simpa using hb
    split at h
    · rename_i why hd; exact .inr (.inl ⟨hb', ⟨why, hd⟩, (Host.Outcome.next.inj h).symm⟩)
    · rename_i i hd; exact .inr (.inr ⟨hb', i, hd, h⟩)

/-- Everything a bus write can do. -/
theorem busWrite_cases {off : Nat} {v : Word} {s t : State} (h : busWrite off v s = .next t) :
    offsetOk off = true ∧
    ((s.rstN = false ∧ t = s) ∨
     (s.rstN = true ∧ regAt s.params off = .status ∧ t = writeStatus v s) ∨
     (s.rstN = true ∧ regAt s.params off = .ie ∧ t = writeIe v s) ∨
     (s.rstN = true ∧ regAt s.params off = .cmd ∧ cmdWrite v s = .next t) ∨
     (s.rstN = true ∧ busy s = true ∧ t = recordErr .busy s) ∨
     (s.rstN = true ∧ busy s = false ∧ t = writeReg (regAt s.params off) v s)) := by
  rw [busWrite] at h
  split at h
  · cases h
  · rename_i ho
    refine ⟨by simpa using ho, ?_⟩
    split at h
    · rename_i hr; exact .inl ⟨by simpa using hr, (Host.Outcome.next.inj h).symm⟩
    · rename_i hr
      have hr' : s.rstN = true := by simpa using hr
      refine .inr ?_
      split at h
      · rename_i hg; exact .inl ⟨hr', hg, (Host.Outcome.next.inj h).symm⟩
      · rename_i hg; exact .inr (.inl ⟨hr', hg, (Host.Outcome.next.inj h).symm⟩)
      · rename_i hg; exact .inr (.inr (.inl ⟨hr', hg, h⟩))
      · split at h
        · rename_i hb; exact .inr (.inr (.inr (.inl ⟨hr', hb, (Host.Outcome.next.inj h).symm⟩)))
        · rename_i hb
          exact .inr (.inr (.inr (.inr ⟨hr', by simpa using hb, (Host.Outcome.next.inj h).symm⟩)))

/-- Everything a bus read can do: it changes the read data and the count of draws, and nothing else (R67). -/
theorem busRead_cases {off : Nat} {s t : State} (h : busRead off s = .next t) :
    offsetOk off = true ∧
    ((s.rstN = false ∧ t = { s with rdata := 0 }) ∨
     (s.rstN = true ∧ busy s = true ∧ volatileReg (regAt s.params off) = true ∧
       t = { s with rdata := Config.freeRead s.draws, draws := s.draws + 1 }) ∨
     (s.rstN = true ∧ (busy s = false ∨ volatileReg (regAt s.params off) = false) ∧
       t = { s with rdata := readReg (regAt s.params off) s })) := by
  rw [busRead] at h
  split at h
  · cases h
  · rename_i ho
    refine ⟨by simpa using ho, ?_⟩
    split at h
    · rename_i hr; exact .inl ⟨by simpa using hr, (Host.Outcome.next.inj h).symm⟩
    · rename_i hr
      have hr' : s.rstN = true := by simpa using hr
      split at h
      · rename_i hb
        rw [Bool.and_eq_true] at hb
        exact .inr (.inl ⟨hr', hb.1, hb.2, (Host.Outcome.next.inj h).symm⟩)
      · rename_i hb
        refine .inr (.inr ⟨hr', ?_, (Host.Outcome.next.inj h).symm⟩)
        rcases hbs : busy s with _ | _
        · exact .inl rfl
        · exact .inr (by simpa [hbs] using hb)

/-- The engine's completion is the meaning of the command in flight (R204). -/
theorem engineStep_some {i : Instr} {s : State} (hp : s.PEND = some i) (hr : s.rstN = true) :
    engineStep s = exec i s := by
  rw [engineStep]
  split
  · rename_i h; rw [hp] at h; cases h
  · rename_i j h
    rw [hp] at h
    cases h
    rw [if_pos hr]

/-- With nothing in flight, or in reset, the engine does nothing (R204, R231). -/
theorem engineStep_idle {s : State} (h : s.PEND = none ∨ s.rstN = false) : engineStep s = .next s := by
  rw [engineStep]
  split
  · rfl
  · rename_i j hj
    rcases h with h | h
    · rw [hj] at h; cases h
    · rw [if_neg (by simp [h])]

theorem hostStep_nil {s : State} (h : s.host = []) : hostStep s = .next s := by
  rw [hostStep]
  split
  · rfl
  · rename_i hm; rw [h] at hm; cases hm

theorem hostStep_cons {m : HostMove} {rest : List HostMove} {s : State} (h : s.host = m :: rest) :
    hostStep s = hostMove m (popHost s) := by
  rw [hostStep]
  split
  · rename_i hm; rw [h] at hm; cases hm
  · rename_i m' rest' hm
    rw [h] at hm
    cases hm
    rfl

/-- Everything a step can do: the engine has nothing to do, the engine completes the command in flight, the host makes
no access, or the host makes its next move. -/
theorem step_cases {s t : State} (h : step s = .next t) :
    (mover s = .engine ∧ (s.PEND = none ∨ s.rstN = false) ∧ t = popTurn s) ∨
    (mover s = .engine ∧ s.rstN = true ∧ ∃ i, s.PEND = some i ∧
      t = complete (effectOf i (popTurn s))) ∨
    (mover s = .host ∧ s.host = [] ∧ t = popTurn s) ∨
    (mover s = .host ∧ ∃ m rest, s.host = m :: rest ∧
      hostMove m (popHost (popTurn s)) = .next t) := by
  rw [step] at h
  split at h
  · rename_i hm
    rcases hp : s.PEND with _ | i
    · rw [engineStep_idle (s := popTurn s) (.inl hp)] at h
      exact .inl ⟨hm, .inl rfl, (Host.Outcome.next.inj h).symm⟩
    · rcases hr : s.rstN with _ | _
      · rw [engineStep_idle (s := popTurn s) (.inr hr)] at h
        exact .inl ⟨hm, .inr rfl, (Host.Outcome.next.inj h).symm⟩
      · rw [engineStep_some (s := popTurn s) hp hr, exec_completes (s := popTurn s) hp] at h
        exact .inr (.inl ⟨hm, rfl, i, rfl, (Host.Outcome.next.inj h).symm⟩)
  · rename_i hm
    rcases hh : s.host with _ | ⟨m, rest⟩
    · rw [hostStep_nil (s := popTurn s) hh] at h
      exact .inr (.inr (.inl ⟨hm, rfl, (Host.Outcome.next.inj h).symm⟩))
    · rw [hostStep_cons (s := popTurn s) hh] at h
      exact .inr (.inr (.inr ⟨hm, m, rest, rfl, h⟩))

/-- An access at a legal offset has a next state; so has every move of the pin. -/
theorem hostMove_next {m : HostMove} {s : State} (h : m.wf = true) : ∃ t, hostMove m s = .next t := by
  cases m with
  | write off v =>
    rw [HostMove.wf] at h
    simp only [hostMove, busWrite, h, Bool.not_true, Bool.false_eq_true, if_false]
    split
    · exact ⟨_, rfl⟩
    · split
      · exact ⟨_, rfl⟩
      · exact ⟨_, rfl⟩
      · rw [cmdWrite]
        split
        · exact ⟨_, rfl⟩
        · split
          · exact ⟨_, rfl⟩
          · exact exec_next _ _
      · split <;> exact ⟨_, rfl⟩
  | read off =>
    rw [HostMove.wf] at h
    simp only [hostMove, busRead, h, Bool.not_true, Bool.false_eq_true, if_false]
    split
    · exact ⟨_, rfl⟩
    · split <;> exact ⟨_, rfl⟩
  | rst level => exact ⟨_, rfl⟩

end Sys2Proof.Machine
end

