-- ==== Sys2Proof/Laws/Window.lean ====
section
/-! SUPPORT. The address map of spec/20_memory.md R61 said once: the register at each offset, and that an offset of the
port is one of them (`regAt_cases`). -/

namespace Sys2Proof.Machine

theorem ksBlocks_le (p : Config.Params) : 1 ≤ ksBlocks p ∧ ksBlocks p ≤ 16 := by
  have := p.blocksLess1.isLt
  simp only [ksBlocks]
  omega

theorem offsetOk_iff {off : Nat} : offsetOk off = true ↔ off % 4 = 0 ∧ off < 0x800 := by
  simp [offsetOk]

@[simp] theorem regAt_id (p : Config.Params) : regAt p 0x000 = .id := rfl
@[simp] theorem regAt_cmd (p : Config.Params) : regAt p 0x004 = .cmd := rfl
@[simp] theorem regAt_status (p : Config.Params) : regAt p 0x008 = .status := rfl
@[simp] theorem regAt_hwcfg (p : Config.Params) : regAt p 0x00C = .hwcfg := rfl
@[simp] theorem regAt_ie (p : Config.Params) : regAt p 0x010 = .ie := rfl
@[simp] theorem regAt_cfg (p : Config.Params) : regAt p 0x014 = .cfg := rfl
@[simp] theorem regAt_kslen (p : Config.Params) : regAt p 0x018 = .kslen := rfl
@[simp] theorem regAt_a (p : Config.Params) : regAt p 0x020 = .a := rfl
@[simp] theorem regAt_b (p : Config.Params) : regAt p 0x024 = .b := rfl
@[simp] theorem regAt_r (p : Config.Params) : regAt p 0x028 = .r := rfl
@[simp] theorem regAt_ctrLo (p : Config.Params) : regAt p 0x0E8 = .ctrLo := rfl
@[simp] theorem regAt_ctrHi (p : Config.Params) : regAt p 0x0EC = .ctrHi := rfl

@[simp] theorem regAt_q (p : Config.Params) (i : Fin 4) : regAt p (0x030 + 4 * i) = .q i := by
  fin_cases i <;> rfl

@[simp] theorem regAt_s (p : Config.Params) (i : Fin 16) : regAt p (0x040 + 4 * i) = .s i := by
  fin_cases i <;> rfl

@[simp] theorem regAt_out (p : Config.Params) (i : Fin 16) : regAt p (0x080 + 4 * i) = .out i := by
  fin_cases i <;> rfl

@[simp] theorem regAt_key (p : Config.Params) (i : Fin 8) : regAt p (0x0C0 + 4 * i) = .key i := by
  fin_cases i <;> rfl

@[simp] theorem regAt_nonce (p : Config.Params) (i : Fin 2) : regAt p (0x0E0 + 4 * i) = .nonce i := by
  fin_cases i <;> rfl

/-- From 0x0F0 on the map is KSBUF or reserved. -/
theorem regAt_high {p : Config.Params} {off : Nat} (h : 0x0F0 ≤ off) :
    regAt p off = if 0x400 ≤ off ∧ off < ksEnd p then .ksbuf ((off - 0x400) / 4) else .reserved := by
  have notRow : ∀ k, k < 0x0F0 → (off = k) = False := fun k hk => eq_false (by omega)
  have notRun : ∀ lo hi, hi < 0x0F0 → (lo ≤ off ∧ off ≤ hi) = False := fun lo hi hhi => eq_false (by omega)
  simp only [regAt, notRow, notRun, Nat.reduceLT, if_false]

/-- KSBUF word `w` stands at `0x400 + 4*w` (R36). -/
theorem regAt_ksbuf {p : Config.Params} {w : Nat} (h : w < 16 * ksBlocks p) :
    regAt p (0x400 + 4 * w) = .ksbuf w := by
  rw [regAt_high (by omega), if_pos (by simp only [ksEnd]; omega)]
  congr 1
  omega

theorem regAt_reserved {p : Config.Params} {off : Nat} (h : reservedOff p off = true) : regAt p off = .reserved := by
  simp only [reservedOff, Bool.or_eq_true, Bool.and_eq_true, beq_iff_eq, decide_eq_true_eq] at h
  have := ksBlocks_le p
  rcases h with ((rfl | rfl) | h) | h
  · rfl
  · rfl
  · rw [regAt_high h.1, if_neg (by omega)]
  · simp only [ksEnd] at h
    rw [regAt_high (by omega), if_neg (by simp only [ksEnd]; omega)]

/-- Every offset of the port is one row of the map (R61, R65). -/
theorem regAt_cases {p : Config.Params} {off : Nat} (h : offsetOk off = true) :
    off ∈ [0x000, 0x004, 0x008, 0x00C, 0x010, 0x014, 0x018, 0x020, 0x024, 0x028, 0x0E8, 0x0EC] ∨
    (∃ i : Fin 4, off = 0x030 + 4 * i) ∨ (∃ i : Fin 16, off = 0x040 + 4 * i) ∨ (∃ i : Fin 16, off = 0x080 + 4 * i) ∨
    (∃ i : Fin 8, off = 0x0C0 + 4 * i) ∨ (∃ i : Fin 2, off = 0x0E0 + 4 * i) ∨
    (∃ w, w < 16 * ksBlocks p ∧ off = 0x400 + 4 * w) ∨ reservedOff p off = true := by
  obtain ⟨h4, hlt⟩ := offsetOk_iff.1 h
  by_cases hq : 0x030 ≤ off ∧ off ≤ 0x03C
  · exact .inr (.inl ⟨⟨(off - 0x030) / 4, by omega⟩, by simp only; omega⟩)
  by_cases hs : 0x040 ≤ off ∧ off ≤ 0x07C
  · exact .inr (.inr (.inl ⟨⟨(off - 0x040) / 4, by omega⟩, by simp only; omega⟩))
  by_cases ho : 0x080 ≤ off ∧ off ≤ 0x0BC
  · exact .inr (.inr (.inr (.inl ⟨⟨(off - 0x080) / 4, by omega⟩, by simp only; omega⟩)))
  by_cases hk : 0x0C0 ≤ off ∧ off ≤ 0x0DC
  · exact .inr (.inr (.inr (.inr (.inl ⟨⟨(off - 0x0C0) / 4, by omega⟩, by simp only; omega⟩))))
  by_cases hn : 0x0E0 ≤ off ∧ off ≤ 0x0E4
  · exact .inr (.inr (.inr (.inr (.inr (.inl ⟨⟨(off - 0x0E0) / 4, by omega⟩, by simp only; omega⟩)))))
  by_cases hb : 0x400 ≤ off ∧ off < ksEnd p
  · simp only [ksEnd] at hb
    exact .inr (.inr (.inr (.inr (.inr (.inr (.inl ⟨(off - 0x400) / 4, by omega, by omega⟩))))))
  by_cases hr : reservedOff p off = true
  · exact .inr (.inr (.inr (.inr (.inr (.inr (.inr hr))))))
  left
  simp only [reservedOff, Bool.or_eq_true, Bool.and_eq_true, beq_iff_eq, decide_eq_true_eq] at hr
  simp only [List.mem_cons, List.not_mem_nil, or_false]
  simp only [ksEnd] at hr hb
  omega

/-- A choice avoids a value when both of its branches do. -/
theorem ite_avoids {c : Prop} [Decidable c] {x y g : Reg} (hx : c → x ≠ g) (hy : ¬c → y ≠ g) :
    (if c then x else y) ≠ g := by
  split
  · exact hx ‹_›
  · exact hy ‹_›

/-- Only one offset is STATUS. -/
theorem off_of_status {p : Config.Params} {off : Nat} (h : regAt p off = .status) : off = 0x008 := by
  by_contra hn
  revert h
  rw [regAt]
  iterate 18 (refine ite_avoids (g := Reg.status) (fun hc => ?_) (fun _ => ?_); first | exact Reg.noConfusion | exact absurd hc hn)
  exact Reg.noConfusion

/-- Only one offset is CMD. -/
theorem off_of_cmd {p : Config.Params} {off : Nat} (h : regAt p off = .cmd) : off = 0x004 := by
  by_contra hn
  revert h
  rw [regAt]
  iterate 18 (refine ite_avoids (g := Reg.cmd) (fun hc => ?_) (fun _ => ?_); first | exact Reg.noConfusion | exact absurd hc hn)
  exact Reg.noConfusion

/-- Only one offset is IE. -/
theorem off_of_ie {p : Config.Params} {off : Nat} (h : regAt p off = .ie) : off = 0x010 := by
  by_contra hn
  revert h
  rw [regAt]
  iterate 18 (refine ite_avoids (g := Reg.ie) (fun hc => ?_) (fun _ => ?_); first | exact Reg.noConfusion | exact absurd hc hn)
  exact Reg.noConfusion

end Sys2Proof.Machine
end

