-- ==== Sys2Proof/Tests/Slice0.lean ====
section
/-! SUPPORT. The model's own tests: every expected value is from spec/95_test_vectors.md (T and V numbers) or written
out from a table of the spec; and, for each obligation with hypotheses, a witness that something meets them. -/

namespace Sys2Proof.Tests

open Sys2Proof Sys2Proof.Machine

/-! ## Helpers -/

/-- The reset state with the command `i` in flight. -/
def pending (i : Instr) : State := { State.reset with PEND := some i }

/-- The outcome is a next state of which `p` holds. -/
def nextIs (o : Host.Outcome State Fault Refusal) (p : State → Bool) : Bool :=
  match o with
  | .next t => p t
  | .fault _ => false
  | .refused _ => false

/-- The last parameters: 53-bit counter, least significant byte first, 16 blocks. -/
def lastParams : Config.Params := { ctrMax := .safe53, order := .le, blocksLess1 := 15 }

/-- The default parameters with one keystream block. -/
def oneBlock : Config.Params := { ctrMax := .full64, order := .be, blocksLess1 := 0 }

/-- The state `e15` of spec/95. -/
def e15 : Block := #v[0, 0, 0, 0, 0, 0, 0, 0, 0, 0, 0, 0, 0, 0, 0, 1]

/-- The hash input `X` of V4. -/
def blockX : Block := #v[0x730D9FD3, 0xB752374C, 0x25DE7503, 0x88EABBBF, 0x30B3ED31, 0xDBB26A01, 0x30A6C7AF,
  0xCFB31056, 0x3F20F01F, 0xA15D530F, 0x71309374, 0x24CC37EE, 0x4FEBC94F, 0x2F9C5103, 0xF3F41ACB, 0x36687658]

/-- The inputs of T30, with the command `i` in flight. -/
def t30 (i : Instr) (keysz : Bool) (p : Config.Params) : State :=
  { State.resetOf p with
    KEY := #v[0x04030201, 0x08070605, 0x0C0B0A09, 0x100F0E0D, 0xCCCBCAC9, 0xD0CFCECD, 0xD4D3D2D1, 0xD8D7D6D5]
    NONCE := #v[0x68676665, 0x6C6B6A69], CTR := 0x6D6E6F7071727374, KEYSZ := keysz, PEND := some i }

/-! ## WellFormed: an ill-formed term for each check -/

theorem test_offset_refused : offsetOk 0x002 = false ∧ offsetOk 0x005 = false ∧ offsetOk 0x800 = false := by decide
theorem test_offset_accepted : offsetOk 0x000 = true ∧ offsetOk 0x7FC = true := by decide
theorem test_move_refused : HostMove.wf (.write 0x7FE 0) = false ∧ HostMove.wf (.read 0x800) = false := by decide
theorem test_move_accepted : HostMove.wf (.write 0x7FC 0) = true ∧ HostMove.wf (.rst false) = true := by decide
theorem test_commands_well_formed : Instr.wf .clear = true ∧ Instr.wf (.wrotl 31) = true := by decide

/-! ## Decode: the words of R80 (RSV 23 bits, IMM5 five, OP four), written out from the opcode map of R83 -/

theorem test_decode_nop : decode 0b00000000000000000000000000000000 = .command .nop := by decide
theorem test_decode_wadd : decode 0b00000000000000000000000000000001 = .command .wadd := by decide
theorem test_decode_wxor : decode 0b00000000000000000000000000000010 = .command .wxor := by decide
theorem test_decode_wrotl_7 : decode 0b00000000000000000000000001110011 = .command (.wrotl 7) := by decide
theorem test_decode_wrotl_16 : decode 0b00000000000000000000000100000011 = .command (.wrotl 16) := by decide
theorem test_decode_qr : decode 0b00000000000000000000000000000100 = .command .qr := by decide
theorem test_decode_colrnd : decode 0b00000000000000000000000000000101 = .command .colrnd := by decide
theorem test_decode_rowrnd : decode 0b00000000000000000000000000000110 = .command .rowrnd := by decide
theorem test_decode_dblrnd : decode 0b00000000000000000000000000000111 = .command .dblrnd := by decide
theorem test_decode_perm10 : decode 0b00000000000000000000000000001000 = .command .perm10 := by decide
theorem test_decode_hash : decode 0b00000000000000000000000000001001 = .command .hash := by decide
theorem test_decode_expand : decode 0b00000000000000000000000000001010 = .command .expand := by decide
theorem test_decode_ksgen : decode 0b00000000000000000000000000001011 = .command .ksgen := by decide
theorem test_decode_clear : decode 0b00000000000000000000000000001100 = .command .clear := by decide

/-- T48, the reserved opcodes. -/
theorem test_reserved_opcodes : decode 0xD = .badcmd .reservedOpcode ∧ decode 0xE = .badcmd .reservedOpcode ∧
    decode 0xF = .badcmd .reservedOpcode ∧ decode 0xFFFFFFFF = .badcmd .reservedOpcode := by decide

/-- T48, IMM5 outside WROTL and RSV. -/
theorem test_reserved_fields : decode 0x11 = .badcmd .imm5Nonzero ∧ decode 0x94 = .badcmd .imm5Nonzero ∧
    decode 0x201 = .badcmd .rsvNonzero ∧ decode 0x203 = .badcmd .rsvNonzero ∧
    decode 0x80000000 = .badcmd .rsvNonzero := by decide

theorem test_table_word : decodeTableWord 32 0x1F3 = some (.wrotl 31) ∧ decodeTableWord 32 0xD = none ∧
    decodeTableWord 8 0xFFFFFF04 = some .qr := by decide

/-! ## The commands -/

/-- T46. -/
theorem test_nop : nextIs (step (State.withFetchWord { State.reset with ERR := .len } 32 0x0))
    (fun t => t == { State.reset with DONE := true }) = true := by decide

/-- T2: the sum wraps. -/
theorem test_wadd_wraps : nextIs (exec .wadd { pending .wadd with A := 0xFFFFFFFF, B := 1, R := 7 })
    (fun t => t.R == 0) = true := by decide

/-- T1. -/
theorem test_wadd : nextIs (exec .wadd { pending .wadd with A := 0x12345678, B := 0x9ABCDEF0 })
    (fun t => t.R == 0xACF13568) = true := by decide

/-- T6. -/
theorem test_wxor : nextIs (exec .wxor { pending .wxor with A := 0x12345678, B := 0xFFFFFFFF })
    (fun t => t.R == 0xEDCBA987) = true := by decide

/-- T9, the row of 7. -/
theorem test_wrotl_7 : nextIs (exec (.wrotl 7) { pending (.wrotl 7) with A := 0x12345678 })
    (fun t => t.R == 0x1A2B3C09) = true := by decide

/-- T9, the row of 0: the identity. -/
theorem test_wrotl_0 : nextIs (exec (.wrotl 0) { pending (.wrotl 0) with A := 0x12345678 })
    (fun t => t.R == 0x12345678) = true := by decide

/-- V2. -/
theorem test_qr : nextIs (exec .qr { pending .qr with Q := #v[1, 0, 0, 0] })
    (fun t => t.Q == #v[0x08008145, 0x00000080, 0x00010200, 0x20500000]) = true := by decide

/-- T15: four different words. -/
theorem test_qr_words : nextIs
    (exec .qr { pending .qr with Q := #v[0xD3917C5B, 0x55F1C407, 0x52A58A7A, 0x8F887A3B] })
    (fun t => t.Q == #v[0x3E2F308C, 0xD90A8F36, 0x6AB2A923, 0x2883524C]) = true := by decide

/-- T18: position 15 takes the part of `y0`. -/
theorem test_colrnd_e15 : nextIs (exec .colrnd { pending .colrnd with S := e15 })
    (fun t => t.S == #v[0, 0, 0, 0x00000080, 0, 0, 0, 0x00010200, 0, 0, 0, 0x20500000, 0, 0, 0, 0x08008145]) =
    true := by decide

/-- T20. -/
theorem test_colrnd_X : nextIs (exec .colrnd { pending .colrnd with S := blockX })
    (fun t => t.S == #v[0x003CE509, 0x8DCAAD0A, 0x31E36A10, 0x12BD9892, 0x4C077C50, 0xEB9299BB, 0xAE03AEE8,
      0x83AEC4C4, 0x1518B761, 0x230DF5C6, 0x12D3ECE8, 0xAF66E523, 0x499DE56B, 0xAF23DEFE, 0x18598B1B, 0x91F4BA0E]) =
    true := by decide

/-- T19. -/
theorem test_rowrnd_e15 : nextIs (exec .rowrnd { pending .rowrnd with S := e15 })
    (fun t => t.S == #v[0, 0, 0, 0, 0, 0, 0, 0, 0, 0, 0, 0, 0x00000080, 0x00010200, 0x20500000, 0x08008145]) =
    true := by decide

/-- T21. -/
theorem test_rowrnd_X : nextIs (exec .rowrnd { pending .rowrnd with S := blockX })
    (fun t => t.S == #v[0x6EC98554, 0x4B7FFE31, 0x3EE27C7E, 0xC7BF4AF3, 0xC421DB44, 0x5F03BB11, 0x038D5EA9,
      0xB02245E8, 0xDF3347B9, 0xF6995B21, 0xFA5BC446, 0x623F7667, 0x61A358DA, 0x38023433, 0x4255A9FF, 0x4EA19F07]) =
    true := by decide

/-- T24. -/
theorem test_dblrnd : nextIs
    (exec .dblrnd { pending .dblrnd with S := #v[0, 1, 2, 3, 4, 5, 6, 7, 8, 9, 10, 11, 12, 13, 14, 15] })
    (fun t => t.S == #v[0x5FF84399, 0xE8E8DC91, 0x7DD7BE10, 0x135421DB, 0x96C9D24F, 0xBDBF75D0, 0x1A88D53C,
      0x87D3E112, 0x8E085C1C, 0xE840980F, 0x10B5C561, 0x4A2EE5E8, 0x9F51F845, 0x1E245252, 0xC952FFA0, 0xD7F6853F]) =
    true := by decide

/-- T26. -/
theorem test_perm10 : nextIs (exec .perm10 { pending .perm10 with S := blockX })
    (fun t => t.S == #v[0x35A48A9A, 0x37A6B950, 0xA5E04FA5, 0x11BFB25B, 0xE9E22FEC, 0x1E38B495, 0x0054DC0F,
      0x69807FEF, 0x5E773857, 0xBCBDE6A5, 0xB2BB96F7, 0x4DA6372D, 0x37FD238C, 0xE2D24A6C, 0xAA6BCD4D, 0x93C79D5B]) =
    true := by decide +kernel

/-- V4, the source's own hash vector; S is unchanged. -/
theorem test_hash : nextIs (exec .hash { pending .hash with S := blockX })
    (fun t => t.S == blockX && t.OUT == #v[0xA8B22A6D, 0xEEF8F09C, 0xCBBEC4A8, 0x9AAA6E1A, 0x1A961D1D, 0xF9EB1E96,
      0x30FBA3BE, 0x39339045, 0x9D982876, 0x5E1B39B4, 0x23EC2A6B, 0x72726F1B, 0x87E8ECDB, 0x126E9B6F, 0x9E5FE818,
      0xCA3013B3]) = true := by decide +kernel

/-- T28. -/
theorem test_hash_ones : nextIs (exec .hash { pending .hash with S := Vector.replicate 16 0xFFFFFFFF })
    (fun t => t.OUT == #v[0x39C0F988, 0x565F8850, 0x0F1AD02A, 0xD72D1AB7, 0xD72D1AB7, 0x39C0F988, 0x565F8850,
      0x0F1AD02A, 0x0F1AD02A, 0xD72D1AB7, 0x39C0F988, 0x565F8850, 0x565F8850, 0x0F1AD02A, 0xD72D1AB7, 0x39C0F988]) =
    true := by decide +kernel

/-- T30: a 256-bit key, big-endian counter. -/
theorem test_expand_256 : nextIs (exec .expand (t30 .expand true .default))
    (fun t => t.S == #v[0x61707865, 0x04030201, 0x08070605, 0x0C0B0A09, 0x100F0E0D, 0x3320646E, 0x68676665,
        0x6C6B6A69, 0x706F6E6D, 0x74737271, 0x79622D32, 0xCCCBCAC9, 0xD0CFCECD, 0xD4D3D2D1, 0xD8D7D6D5, 0x6B206574] &&
      t.OUT == #v[0x27442545, 0xC16B0F29, 0x067A8BFF, 0x62D9E9AA, 0x6AB69059, 0x41C83315, 0x22DE31EF, 0x7E2872D7,
        0xE107C568, 0x021F99C5, 0xB04C4E66, 0xB8F6F554, 0x8285A0B1, 0x77954806, 0xEC84C3C0, 0x4AF667EA]) =
    true := by decide +kernel

/-- T31 and T32: a 128-bit key, and the little-endian counter. -/
theorem test_expand_128_and_le : nextIs (exec .expand (t30 .expand false .default))
      (fun t => t.S[5] == 0x3120646E && t.S[10] == 0x79622D36 && t.S[14] == 0x100F0E0D &&
        t.OUT[0] == 0xF82EAD27 && t.OUT[15] == 0xC1B1B668) = true ∧
    nextIs (exec .expand (t30 .expand true { Config.Params.default with order := .le }))
      (fun t => t.S[8] == 0x71727374 && t.S[9] == 0x6D6E6F70 && t.OUT[0] == 0x54526406 && t.OUT[15] == 0x9C7DAEA3) =
    true := by decide +kernel

/-- T41, blocks 1 and 2: KSLEN 65 is two blocks, and the counter moves by two. -/
theorem test_ksgen_be : nextIs (exec .ksgen { pending .ksgen with KSLEN := 65, CTR := 1 })
    (fun t => t.KSBUF.word 0x400 == 0xA54E5226 && t.KSBUF.word 0x43C == 0x8A43BF12 && t.KSBUF.word 0x440 == 0x6BC5CD6C &&
      t.KSBUF.word 0x47C == 0x462B6B6F && t.KSBUF.word 0x480 == 0 && t.CTR == 3) = true := by decide +kernel

/-- T42 and T45: the little-endian counter, and a 256-bit key. -/
theorem test_ksgen_le_and_256 : nextIs
      (exec .ksgen { State.resetOf lastParams with KSLEN := 1, CTR := 2, PEND := some .ksgen })
      (fun t => t.KSBUF.word 0x400 == 0x78EAD4D1 && t.CTR == 3) = true ∧
    nextIs (exec .ksgen { t30 .ksgen true .default with KSLEN := 128 })
      (fun t => t.KSBUF.word 0x400 == 0x27442545 && t.KSBUF.word 0x440 == 0xB52C2ACB &&
        t.KSBUF.word 0x47C == 0x2B9655D4 && t.CTR == 0x6D6E6F7071727376) = true := by decide +kernel

/-- T47. -/
theorem test_clear : nextIs
    (exec .clear { t30 .clear true .default with
      A := 1, B := 2, R := 3, Q := #v[1, 2, 3, 4], S := e15, OUT := e15, KSLEN := 5, KSBUF := [(0x400, 9)],
      DONEIE := true, ERRIE := true })
    (fun t => irq t && statusWord t == 2 &&
      t == { State.reset with KEYSZ := true, DONEIE := true, ERRIE := true, DONE := true }) = true := by decide

/-! ## Handshake, bus and reset -/

/-- T43, the boundary rows, at CMD: the word of KSGEN at counter `c` for `l` bytes, and STATUS after the write. -/
def ksgenStatus (m : Config.CtrMax) (c : Counter) (l : Word) : Host.Outcome State Fault Refusal :=
  busWrite 0x004 0xB
    { State.resetOf { Config.Params.default with ctrMax := m } with CTR := c, KSLEN := l }

theorem test_ksgen_checks_full64 :
    nextIs (ksgenStatus .full64 0xFFFFFFFFFFFFFFF7 512) (fun t => statusWord t == 0x01) = true ∧
    nextIs (ksgenStatus .full64 0xFFFFFFFFFFFFFFF8 512) (fun t => statusWord t == 0x30) = true ∧
    nextIs (ksgenStatus .full64 0xFFFFFFFFFFFFFFFF 0) (fun t => statusWord t == 0x01) = true ∧
    nextIs (ksgenStatus .full64 0xFFFFFFFFFFFFFFFF 1000) (fun t => statusWord t == 0x30) = true ∧
    nextIs (ksgenStatus .full64 0 1000) (fun t => statusWord t == 0x40) = true := by decide

theorem test_ksgen_checks_safe53 :
    nextIs (ksgenStatus .safe53 0x001FFFFFFFFFFFFE 64) (fun t => statusWord t == 0x01) = true ∧
    nextIs (ksgenStatus .safe53 0x001FFFFFFFFFFFFF 64) (fun t => statusWord t == 0x30) = true ∧
    nextIs (ksgenStatus .safe53 0x001FFFFFFFFFFFFF 0) (fun t => statusWord t == 0x01) = true ∧
    nextIs (ksgenStatus .safe53 0x0020000000000000 0) (fun t => statusWord t == 0x30) = true := by decide

/-- T49: the rows of a rejection, of the first error kept, and of STATUS writes. -/
theorem test_status_rows :
    nextIs (busWrite 0x004 0xD { State.reset with DONE := true }) (fun t => statusWord t == 0x10) = true ∧
    nextIs (busWrite 0x004 0xB { State.reset with ERR := .badcmd, KSLEN := 1000 }) (fun t => statusWord t == 0x10) =
      true ∧
    nextIs (busWrite 0x008 0x2 { State.reset with ERR := .badcmd }) (fun t => statusWord t == 0x10) = true ∧
    nextIs (busWrite 0x008 0x8 { State.reset with ERR := .busy, DONE := true }) (fun t => statusWord t == 0x02) =
      true ∧
    nextIs (busWrite 0x008 0xF1 { State.reset with DONE := true }) (fun t => statusWord t == 0x02) = true := by decide

/-- T50: accesses while BUSY. -/
theorem test_while_busy :
    nextIs (busWrite 0x020 0x11111111 (pending .perm10)) (fun t => t.A == 0 && statusWord t == 0x21) = true ∧
    nextIs (busWrite 0x004 0x4 (pending .perm10)) (fun t => t.PEND == some .perm10 && statusWord t == 0x21) = true ∧
    nextIs (busWrite 0x010 0x1 (pending .perm10)) (fun t => t.DONEIE && statusWord t == 0x01) = true ∧
    nextIs (busRead 0x000 (pending .perm10)) (fun t => t.rdata == 0x5A200007 && statusWord t == 0x01) = true := by
  decide

/-- T52: idle writes with no effect. -/
theorem test_idle_ignored :
    nextIs (busWrite 0x028 5 .reset) (fun t => t == .reset) = true ∧
    nextIs (busWrite 0x080 5 .reset) (fun t => t == .reset) = true ∧
    nextIs (busWrite 0x400 5 .reset) (fun t => t == .reset) = true ∧
    nextIs (busWrite 0x01C 5 .reset) (fun t => t == .reset) = true ∧
    nextIs (busRead 0x0CC { State.reset with KEY := #v[0, 0, 0, 0xDEADBEEF, 0, 0, 0, 0] }) (fun t => t.rdata == 0) =
      true := by decide

/-- T53 and T44: HWCFG. -/
theorem test_hwcfg : hwcfgWord .default = 0x00000008 ∧
    hwcfgWord { Config.Params.default with ctrMax := .safe53 } = 0x00000108 ∧
    hwcfgWord { Config.Params.default with order := .le } = 0x00000208 ∧ hwcfgWord lastParams = 0x00000310 ∧
    hwcfgWord oneBlock = 0x00000001 := by decide

/-- P4: a write of A and the completion of PERM10 in both orders, from the reset state. -/
theorem test_race :
    nextIs (Host.Core.run Sys2Proof.core 2
        { pending .perm10 with host := [.write 0x020 0x11111111], turns := [.host, .engine] })
      (fun t => t.A == 0 && statusWord t == 0x22) = true ∧
    nextIs (Host.Core.run Sys2Proof.core 2
        { pending .perm10 with host := [.write 0x020 0x11111111], turns := [.engine, .host] })
      (fun t => t.A == 0x11111111 && statusWord t == 0x02) = true := by decide +kernel

/-- R231: a reset while KSGEN is in flight abandons it. -/
theorem test_reset_abandons : nextIs (hostMove (.rst false) { pending .ksgen with KSLEN := 64 })
    (fun t => nextIs (engineStep t) (fun u => u.KSBUF == [] && u.CTR == 0 && u.PEND == none)) = true := by decide

/-- T30 at the ports of the sub-blocks: the block of T30 from its key, nonce and counter bytes. -/
theorem test_expansion_block : salsa20ExpansionBlock 0x100F0E0D0C0B0A090807060504030201
      0xD8D7D6D5D4D3D2D1D0CFCECDCCCBCAC9 true 0x74737271706F6E6D6C6B6A6968676665 =
    packState #v[0x27442545, 0xC16B0F29, 0x067A8BFF, 0x62D9E9AA, 0x6AB69059, 0x41C83315, 0x22DE31EF, 0x7E2872D7,
      0xE107C568, 0x021F99C5, 0xB04C4E66, 0xB8F6F554, 0x8285A0B1, 0x77954806, 0xEC84C3C0, 0x4AF667EA] := by
  decide +kernel

/-! ## Witnesses: for each obligation with hypotheses, a state and operands that meet them together, and, where it has
several clauses, values where they meet -/

/-- The reset state with the host's moves `ms`. -/
def withMoves (ms : List HostMove) : State := { State.reset with host := ms }

theorem witness_DecodeEncodeRoundTrip : decode 0x1F3 = .command (.wrotl 31) := by decide

theorem witness_DecodeVerdictAndBadCmdRejection :
    State.reset.rstN = true ∧ State.reset.PEND = none ∧ specBadCmd 0xD ∧ specBadCmd 0x200 ∧ specBadCmd 0x10 ∧
      ¬ specBadCmd 0xC ∧ ¬ specBadCmd 0x1F3 := by
  simp [specBadCmd, State.reset, State.resetOf]

theorem witness_EngineStepRunsPendingCommand :
    mover (pending .qr) = .engine ∧ (pending .qr).rstN = true ∧ (pending .qr).PEND = some .qr := by decide

theorem witness_CmdWriteStepRunsDecodedCommand :
    let s := withMoves [.write 0x004 0x73, .read 0x028]
    mover s = .host ∧ s.host = .write 0x004 0x73 :: [.read 0x028] ∧ s.rstN = true ∧ s.PEND = none ∧
      decode 0x73 = .command (.wrotl 7) := by decide

theorem witness_FetchWordRunsCommand :
    issueError .ksgen { State.reset with KSLEN := 512 } = none ∧
      issueError .ksgen { State.reset with KSLEN := 513 } = some .len := by decide

theorem witness_CmdWriteFollowsCheck :
    State.reset.rstN = true ∧ specBlocks State.reset.KSLEN 0 ∧ specCheck 0xB State.reset 0 .noError ∧
      specCheck 0x94 State.reset 0 .badcmd ∧ specCheck 0xB (pending .qr) 0 .busy := by
  simp [specCheck, specBlocks, specBadCmd, pending, State.reset, State.resetOf, ctrMaxVal, Config.Params.default]

/-- T43: eight blocks fit at `2^64 - 9` and not at `2^64 - 8`; nine exceed KSBUF. -/
theorem witness_CmdWriteFollowsCheck_ksgen :
    specBlocks 512 8 ∧ specBlocks 513 9 ∧
      specCheck 0xB { State.reset with KSLEN := 512, CTR := 0xFFFFFFFFFFFFFFF7 } 8 .noError ∧
      specCheck 0xB { State.reset with KSLEN := 512, CTR := 0xFFFFFFFFFFFFFFF8 } 8 .ctr ∧
      specCheck 0xB { State.reset with KSLEN := 513 } 9 .len := by
  simp [specCheck, specBlocks, specBadCmd, State.reset, State.resetOf, ctrMaxVal, ksBlocks, Config.Params.default]

theorem witness_IssueIsAcceptedOrRejected :
    State.reset.PEND = none ∧ Instr.qr ≠ .expand ∧ Instr.qr ≠ .ksgen ∧
      (pending .wadd).PEND = some .wadd ∧ Instr.wadd ≠ .qr := by decide

theorem witness_PendingCommandCompletes :
    let s := { pending .ksgen with host := [.write 0x020 1, .read 0x008], turns := [.host, .host], KSLEN := 512 }
    GoodState s ∧ hostOk s = true ∧ noReset s = true ∧ s.PEND = some .ksgen := by decide

theorem witness_OperandsStableWhileBusy :
    let s := { pending .qr with host := [.write 0x030 1], turns := [.host] }
    let t := { pending .qr with ERR := .busy }
    step s = .next t ∧ s.PEND = some .qr ∧ t.PEND = some .qr ∧ s.rstN = true ∧ GoodState s := by
  intro s t
  and_intros <;> rfl

theorem witness_WaddCompletes : (pending .wadd).PEND = some .wadd := by decide
theorem witness_WxorCompletes : (pending .wxor).PEND = some .wxor := by decide
theorem witness_WrotlCompletes : (pending (.wrotl 0)).PEND = some (.wrotl 0) ∧
    (pending (.wrotl 31)).PEND = some (.wrotl 31) ∧ 31 < 32 := by decide
theorem witness_QrCompletes : (pending .qr).PEND = some .qr := by decide
theorem witness_ColrndCompletes : (pending .colrnd).PEND = some .colrnd := by decide
theorem witness_RowrndCompletes : (pending .rowrnd).PEND = some .rowrnd := by decide
theorem witness_InPlaceRoundsAgree : [(15, 12, 13, 14), (10, 11, 8, 9), (5, 6, 7, 4), (0, 1, 2, 3)].Perm rowGroups ∧
    [(15, 3, 7, 11), (10, 14, 2, 6), (5, 9, 13, 1), (0, 4, 8, 12)].Perm columnGroups := by decide +kernel
theorem witness_ExpandCompletes : (t30 .expand true .default).PEND = some .expand := by decide

theorem witness_ExpandKsgenIssueChecks :
    State.reset.PEND = none ∧ specBlocks State.reset.KSLEN 0 ∧ ctrMaxVal .full64 = 18446744073709551615 ∧
      (0x001FFFFFFFFFFFFF : Counter).toNat ≤ ctrMaxVal .safe53 ∧ (0x0020000000000000 : Counter).toNat > ctrMaxVal .safe53 ∧
      (ctrHi 0x0020000000000000).toNat / 2 ^ 21 ≠ 0 ∧ (ctrHi 0x001FFFFFFFFFFFFF).toNat / 2 ^ 21 = 0 ∧
      ksBlocks .default = 8 ∧ ksBlocks lastParams = 16 := by
  refine ⟨rfl, ?_, ?_⟩
  · simp [specBlocks, State.reset, State.resetOf]
  · decide

theorem witness_KsgenCompletes :
    let s := { pending .ksgen with KSLEN := 512, CTR := 0xFFFFFFFFFFFFFFF7, KSBUF := [(0x5FF, 1)] }
    s.PEND = some .ksgen ∧ s.KSBUF.wf = true ∧ specBlocks s.KSLEN 8 ∧ s.CTR.toNat + 8 ≤ ctrMaxVal s.params.ctrMax ∧
      8 ≤ ksBlocks s.params := by
  refine ⟨rfl, rfl, ?_, ?_⟩
  · simp [specBlocks]
  · decide

theorem witness_KsgenCompletes_nothing :
    let s := { pending .ksgen with CTR := 0xFFFFFFFFFFFFFFFF }
    s.PEND = some .ksgen ∧ s.KSBUF.wf = true ∧ specBlocks s.KSLEN 0 ∧ s.CTR.toNat + 0 ≤ ctrMaxVal s.params.ctrMax ∧
      0 ≤ ksBlocks s.params := by
  refine ⟨rfl, rfl, ?_, ?_⟩
  · simp [specBlocks, pending, State.reset, State.resetOf]
  · decide

theorem witness_KsgenBlockIsExpandAtCounter :
    State.reset.KSBUF.wf = true ∧ specBlocks 512 8 ∧ 7 < 8 := by
  refine ⟨rfl, ?_, by decide⟩
  simp [specBlocks]

/-- V7: six blocks from counter 0, four from counter 2. -/
theorem witness_KeystreamIsBlockAddressable :
    let s1 := { pending .ksgen with KSLEN := 384 }
    let s2 := { pending .ksgen with KSLEN := 256, CTR := 2 }
    s1.PEND = some .ksgen ∧ s2.PEND = some .ksgen ∧ s1.KSBUF.wf = true ∧ s2.KSBUF.wf = true ∧
      s2.params = s1.params ∧ s2.KEY = s1.KEY ∧ s2.KEYSZ = s1.KEYSZ ∧ s2.NONCE = s1.NONCE ∧
      specBlocks s1.KSLEN 6 ∧ specBlocks s2.KSLEN 4 ∧ ksgenError s1 = none ∧ ksgenError s2 = none ∧
      s2.CTR.toNat = s1.CTR.toNat + 2 ∧ 2 + 4 ≤ 6 ∧ 4 ≤ 4 := by
  refine ⟨rfl, rfl, rfl, rfl, rfl, rfl, rfl, rfl, ?_, ?_, ?_⟩
  · simp [specBlocks]
  · simp [specBlocks]
  · decide

/-- V5: 53 and 77 bytes. -/
theorem witness_KeystreamPrefixLaw :
    let s1 := { pending .ksgen with KSLEN := 53 }
    let s2 := { pending .ksgen with KSLEN := 77 }
    s1.PEND = some .ksgen ∧ s2.PEND = some .ksgen ∧ s1.KSBUF.wf = true ∧ s2.KSBUF.wf = true ∧
      s2.params = s1.params ∧ s2.KEY = s1.KEY ∧ s2.KEYSZ = s1.KEYSZ ∧ s2.NONCE = s1.NONCE ∧ s2.CTR = s1.CTR ∧
      ksgenError s1 = none ∧ ksgenError s2 = none ∧ s1.KSLEN.toNat < s2.KSLEN.toNat ∧ specBlocks s1.KSLEN 1 := by
  refine ⟨rfl, rfl, rfl, rfl, rfl, rfl, rfl, rfl, rfl, by decide, by decide, by decide, ?_⟩
  simp [specBlocks]

/-- The second KSGEN starts where the first ended, right up to the last counter. -/
theorem witness_SuccessiveKsgensNeverRepeatAnInput :
    let s := { pending .ksgen with KSLEN := 65, CTR := 0xFFFFFFFFFFFFFFFC }
    s.PEND = some .ksgen ∧ ksgenError s = none ∧
      ∃ t, exec .ksgen s = .next t ∧ ksgenError { t with KSLEN := 64 } = none ∧ 1 < blockCount s.KSLEN ∧
        0 < blockCount 64 ∧ 0 < blockCount s.KSLEN ∧ 0 ≠ 1 :=
  ⟨rfl, by decide, _, rfl, by decide, by decide, by decide, by decide, by decide⟩

theorem witness_ShortKeyIgnoresKey1 : (t30 .expand false .default).KEYSZ = false := by decide
theorem witness_ClearCompletes : (pending .clear).PEND = some .clear := by decide
theorem witness_NopIsTheHandshakeAlone : (pending .nop).PEND = some .nop ∧ State.reset.PEND = none := by decide

theorem witness_WritesWhileBusy :
    offsetOk 0x004 = true ∧ offsetOk 0x008 = true ∧ offsetOk 0x010 = true ∧ offsetOk 0x000 = true ∧
      offsetOk 0x7FC = true ∧ (pending .qr).rstN = true ∧ (pending .qr).PEND ≠ none := by decide

/-- The last KSBUF word and the first absent one, with eight blocks and with sixteen. -/
theorem witness_ReadsWhileBusy :
    (pending .qr).rstN = true ∧ (pending .qr).PEND ≠ none ∧ offsetOk 0x5FC = true ∧ offsetOk 0x7FC = true ∧
      volatileOff .default 0x018 = true ∧ volatileOff .default 0x5FC = true ∧ volatileOff .default 0x600 = false ∧
      volatileOff lastParams 0x7FC = true ∧ volatileOff .default 0x02C = false ∧ volatileOff .default 0x0C0 = false ∧
      volatileOff .default 0x0EC = true := by decide

theorem witness_IdleReadsFollowTheMap :
    State.reset.rstN = true ∧ State.reset.PEND = none ∧ 127 < 16 * ksBlocks State.reset.params ∧
      offsetOk 0x600 = true ∧ reservedOff State.reset.params 0x600 = true ∧ reservedOff lastParams 0x7FC = false := by
  decide

theorem witness_WriteThenReadReturnsTheValue :
    State.reset.rstN = true ∧ State.reset.PEND = none ∧ offsetOk 0x018 = true ∧ rwOff 0x018 = true ∧
      offsetOk 0x0EC = true ∧ rwOff 0x0EC = true := by decide

theorem witness_IdleWriteLeavesOtherRegisters :
    offsetOk 0x020 = true ∧ State.reset.rstN = true ∧ State.reset.PEND = none ∧ 0x020 ≠ 0x004 ∧ 0x024 ≠ 0x020 ∧
      readsAs State.reset 0x024 0 := by
  exact ⟨rfl, rfl, rfl, by decide, by decide, rfl⟩

theorem witness_ReservedAndReadOnlyWords :
    offsetOk 0x01C = true ∧ State.reset.rstN = true ∧ reservedOff State.reset.params 0x01C = true ∧
      ignoredOff 0x01C = true ∧ State.reset.PEND = none ∧ (pending .qr).PEND ≠ none ∧ ignoredOff 0x7FC = true ∧
      ignoredOff 0x0C0 = false := by decide

theorem witness_StatusFields : State.reset.rstN = true ∧ (pending .nop).PEND = some .nop ∧
    exec .nop (pending .nop) = .next { State.reset with DONE := true } ∧
    busWrite 0x004 0xD State.reset = .next { State.reset with ERR := .badcmd } := by
  and_intros <;> rfl

theorem witness_IeAndCfgFields : State.reset.rstN = true ∧ State.reset.PEND = none := by decide

theorem witness_IrqIsTheLevelOfStatusAndIe :
    State.reset.rstN = true ∧ irq { State.reset with DONE := true, DONEIE := true } = true ∧
      ({ State.reset with rstN := false } : State).rstN = false ∧
      busWrite 0x008 0x0000000A { State.reset with ERR := .len } = .next State.reset ∧
      exec .nop State.reset = .next (pending .nop) ∧ (pending .nop).PEND = some .nop := by
  and_intros <;> rfl

theorem witness_IdAndHwcfg : State.reset.rstN = true ∧ State.reset.PEND = none := by decide
theorem witness_CtrHalvesArePlainBinary : State.reset.rstN = true ∧ State.reset.PEND = none := by decide
theorem witness_KsbufByteView : State.reset.rstN = true ∧ State.reset.PEND = none ∧
    511 < 64 * ksBlocks State.reset.params := by decide
theorem witness_ResetPin : ({ State.reset with rstN := false } : State).rstN = false ∧ offsetOk 0x7FC = true := by decide
theorem witness_ResetAbandonsTheCommand : (pending .ksgen).PEND ≠ none := by decide
theorem witness_ResetStateTable : offsetOk 0x7FC = true ∧ 0x7FC ≠ 0x000 ∧ 0x7FC ≠ 0x00C := by decide

theorem witness_EveryStepKeepsInv : GoodState (pending .wadd) ∧
    step (pending .wadd) = .next { State.reset with DONE := true } := by
  and_intros <;> rfl

theorem witness_StepStopsOnlyOnNonAccess :
    step (withMoves [.read 0x002]) = .refused (.notAnAccess 0x002) ∧
      step (withMoves [.write 0x800 0]) = .refused (.notAnAccess 0x800) ∧
      step { withMoves [.read 0x7FF] with rstN := false } = .refused (.notAnAccess 0x7FF) ∧
      mover { withMoves [.read 0x7FF] with PEND := some .nop, turns := [.host] } = .host ∧
      step { withMoves [.read 0x7FF] with PEND := some .nop, turns := [.host] } = .refused (.notAnAccess 0x7FF) ∧
      hostOk (withMoves [.read 0x7FC]) = true := by
  and_intros <;> rfl

theorem witness_OnlyTheNamedCommandsWriteResults :
    let s := { pending .wadd with A := 1 }
    let t := { State.reset with A := 1, R := 1, DONE := true }
    step s = .next t ∧ t.R ≠ s.R := by
  intro s t
  and_intros <;> first | rfl | decide

theorem witness_OnlyTheNamedCommandsWriteResults_buffers :
    let s := { pending .clear with OUT := e15, KSBUF := [(0x400, 9)] }
    let t := { State.reset with DONE := true }
    step s = .next t ∧ t.OUT ≠ s.OUT ∧ t.KSBUF ≠ s.KSBUF := by
  intro s t
  and_intros <;> first | rfl | decide

theorem witness_EngineChangesKeyOnlyByClear :
    step (pending .wadd) = .next { State.reset with DONE := true } ∧ mover (pending .wadd) = .engine ∧
      (pending .wadd).PEND ≠ some .clear ∧ (pending .wadd).PEND ≠ some .ksgen := by
  and_intros <;> first | rfl | decide

/-- The three ways a recorded error goes: ERRC, acceptance, reset. -/
theorem witness_FirstErrorIsKept :
    step { withMoves [.write 0x008 8] with ERR := .len } = .next State.reset ∧
      step { withMoves [.write 0x004 0] with ERR := .len } = .next (pending .nop) ∧
      step { withMoves [.rst true] with ERR := .len, rstN := false } = .next State.reset ∧
      ErrCode.len ≠ .noError ∧ State.reset.ERR ≠ ErrCode.len := by
  and_intros <;> first | rfl | decide

theorem witness_HostStepsDoNotRevealTheKey :
    step (withMoves [.read 0x0C0]) = .next State.reset ∧ mover (withMoves [.read 0x0C0]) = .host := by
  and_intros <;> rfl

theorem witness_ExpansionAndKeystreamAtTheirPorts : (t30 .expand true .default).PEND = some .expand ∧
    (pending .ksgen).PEND = some .ksgen ∧ (pending .ksgen).KSBUF.wf = true ∧
    [1, 0].Perm (List.range (blockCount 65)) := by decide

end Sys2Proof.Tests
end

/-! ## The bus at a given register

The accesses of spec/20_memory.md R60 to R69 as equations: what a write or a read of a legal offset does out of
reset, by the register that stands there. -/

section
namespace Sys2Proof.Machine

theorem busy_eq_false_iff {s : State} : busy s = false ↔ s.PEND = none := by
  simp [busy]

theorem busWrite_status {s : State} (hr : s.rstN = true) (v : Word) :
    busWrite 0x008 v s = .next (writeStatus v s) := by
  simp [busWrite, offsetOk, hr]

theorem busWrite_ie {s : State} (hr : s.rstN = true) (v : Word) : busWrite 0x010 v s = .next (writeIe v s) := by
  simp [busWrite, offsetOk, hr]

theorem busWrite_cmd {s : State} (hr : s.rstN = true) (w : Word) : busWrite 0x004 w s = cmdWrite w s := by
  simp [busWrite, offsetOk, hr]

/-- An idle write of a register other than CMD, STATUS and IE (R69). -/
theorem busWrite_idle {s : State} {off : Nat} {g : Reg} (ho : offsetOk off = true) (hr : s.rstN = true)
    (hp : s.PEND = none) (hg : regAt s.params off = g) (hc : g ≠ .cmd) (hs : g ≠ .status) (hi : g ≠ .ie) (v : Word) :
    busWrite off v s = .next (writeReg g v s) := by
  subst hg
  simp only [busWrite, ho, hr, busy_eq_false_iff.2 hp, Bool.not_true, Bool.false_eq_true, if_false]

/-- A read is exact when nothing is in flight or the register is not volatile (R67, R241). -/
theorem readsAs_of_exact {s : State} {off : Nat} {g : Reg} (ho : offsetOk off = true) (hr : s.rstN = true)
    (hg : regAt s.params off = g) (hx : s.PEND = none ∨ volatileReg g = false) :
    readsAs s off (readReg g s) := by
  subst hg
  have hb : (busy s && volatileReg (regAt s.params off)) = false := by
    rw [Bool.and_eq_false_iff, busy_eq_false_iff]
    exact hx
  simp [readsAs, busRead, ho, hr, hb]

/-- The idle machine issues the decoded command (R29). -/
theorem cmdWrite_command {s : State} {w : Word} {i : Instr} (hp : s.PEND = none) (hd : decode w = .command i) :
    cmdWrite w s = exec i s := by
  simp [cmdWrite, busy_eq_false_iff.2 hp, hd]

/-- A write of CMD is a rejection, or the acceptance of the decoded command by the idle machine (R201 to R203). -/
theorem cmdWrite_rejects_or_accepts {w : Word} {s t : State} (h : cmdWrite w s = .next t) :
    (∃ e, t = reject e s) ∨ (s.PEND = none ∧ ∃ i, decode w = .command i ∧ t = accept i s) := by
  obtain ⟨-, ht⟩ | ⟨-, -, ht⟩ | ⟨hb, i, hd, he⟩ := cmdWrite_cases h
  · exact .inl ⟨_, ht⟩
  · exact .inl ⟨_, ht⟩
  · have hp := busy_eq_false_iff.1 hb
    obtain ⟨-, e, -, ht⟩ | ⟨-, -, ht⟩ | ⟨hi, -⟩ | ⟨j, hj, -⟩ := exec_cases he
    · exact .inl ⟨e, ht⟩
    · exact .inr ⟨hp, i, hd, ht⟩
    · rw [hp] at hi; cases hi
    · rw [hp] at hj; cases hj

end Sys2Proof.Machine
end

/-! ## STATUS, IE and the interrupt output -/

section
namespace Sys2Proof.Machine

/-- STATUS as a number (R30): ERR in [7:4], DONE in [1], BUSY in [0]. -/
theorem statusWord_toNat (s : State) :
    (statusWord s).toNat = 16 * s.ERR.code.toNat + 2 * s.DONE.toNat + (busy s).toNat := by
  unfold statusWord
  cases s.ERR <;> cases s.DONE <;> cases busy s <;> rfl

theorem code_le (e : ErrCode) : e.code.toNat ≤ 4 := by
  cases e <;> decide

theorem code_eq_zero_iff {e : ErrCode} : e.code = 0 ↔ e = .noError := by
  cases e <;> decide

/-- The field ERR of STATUS is the code (R30, R200). -/
theorem statusWord_err (s : State) : (statusWord s).toNat / 16 = s.ERR.code.toNat := by
  have hd := s.DONE.toNat_le
  have hb := (busy s).toNat_le
  rw [statusWord_toNat]
  omega

/-- The bits of STATUS below the code. -/
theorem statusWord_lowBits (s : State) :
    (statusWord s).getLsbD 0 = busy s ∧ (statusWord s).getLsbD 1 = s.DONE ∧ (statusWord s).getLsbD 2 = false ∧
      (statusWord s).getLsbD 3 = false := by
  unfold statusWord
  cases s.ERR <;> cases s.DONE <;> cases busy s <;> decide

theorem statusWord_resetOf (p : Config.Params) : statusWord (State.resetOf p) = 0 := by
  rw [← BitVec.toNat_inj, statusWord_toNat]
  rfl

/-- IE as a number (R31). -/
theorem readReg_ie_toNat (s : State) : (readReg .ie s).toNat = 2 * s.ERRIE.toNat + s.DONEIE.toNat := by
  simp only [readReg]
  cases s.ERRIE <;> cases s.DONEIE <;> rfl

theorem readReg_ie_bits (s : State) :
    (readReg .ie s).getLsbD 0 = s.DONEIE ∧ (readReg .ie s).getLsbD 1 = s.ERRIE := by
  simp only [readReg]
  cases s.ERRIE <;> cases s.DONEIE <;> decide

/-- CFG as a number (R32). -/
theorem readReg_cfg_toNat (s : State) : (readReg .cfg s).toNat = s.KEYSZ.toNat := by
  simp only [readReg]
  cases s.KEYSZ <;> rfl

/-- The interrupt output out of reset (R38). -/
theorem irq_iff {s : State} (hr : s.rstN = true) :
    irq s = true ↔ (s.DONE = true ∧ s.DONEIE = true) ∨ (s.ERR ≠ .noError ∧ s.ERRIE = true) := by
  simp [irq, hr]

/-- With DONE 0 and no recorded error there is no interrupt. -/
theorem irq_eq_false_of_clear {s : State} (hd : s.DONE = false) (he : s.ERR = .noError) : irq s = false := by
  simp [irq, hd, he]

/-- IE reads back the two implemented bits of the word written (R31). -/
theorem readReg_ie_writeIe (v : Word) (s : State) : readReg .ie (writeIe v s) = v &&& 3 := by
  apply BitVec.eq_of_toNat_eq
  have hv : (v &&& 3).toNat = v.toNat % 4 := Nat.and_two_pow_sub_one_eq_mod v.toNat 2
  rw [readReg_ie_toNat, hv, writeIe_ERRIE, writeIe_DONEIE, BitVec.getLsbD, BitVec.getLsbD, Nat.toNat_testBit,
    Nat.toNat_testBit]
  omega

/-- CFG reads back the one implemented bit of the word written (R32). -/
theorem readReg_cfg_writeReg (v : Word) (s : State) : readReg .cfg (writeReg .cfg v s) = v &&& 1 := by
  apply BitVec.eq_of_toNat_eq
  have hv : (v &&& 1).toNat = v.toNat % 2 := Nat.and_two_pow_sub_one_eq_mod v.toNat 1
  rw [readReg_cfg_toNat, hv, writeReg, BitVec.getLsbD, Nat.toNat_testBit, pow_zero, Nat.div_one]

/-- Settles O44: the STATUS bits and the IE bits as read are the fields that `irq` combines. -/
theorem irqIsTheLevelOfStatusAndIe : Obligations.IrqIsTheLevelOfStatusAndIe := by
  refine ⟨fun s hr => ?_, fun s hr => ?_, fun p => rfl, fun s t hr h => ?_, fun i s t hp h hi => ?_⟩
  · have hc : s.ERR.code.toNat % 16 = 0 ↔ s.ERR = .noError := by
      rw [← code_eq_zero_iff, Nat.mod_eq_of_lt s.ERR.code.isLt, ← BitVec.toNat_inj]; rfl
    obtain ⟨-, hd, -, -⟩ := statusWord_lowBits s
    obtain ⟨hdi, hei⟩ := readReg_ie_bits s
    rw [irq_iff hr, hd, statusWord_err, hdi, hei, ne_eq, ne_eq, hc]
  · simp [irq, hr]
  · rw [busWrite_status hr] at h
    cases h
    exact irq_eq_false_of_clear (by simp) (by simp)
  · obtain ⟨-, e, -, rfl⟩ | ⟨-, -, rfl⟩ | ⟨hi', -⟩ | ⟨j, hj, -⟩ := exec_cases h
    · rw [reject_PEND, hp] at hi; cases hi
    · exact irq_eq_false_of_clear rfl rfl
    · rw [hp] at hi'; cases hi'
    · rw [hp] at hj; cases hj

/-- Settles O42, field by field; the last clauses by what a completion and a CMD write leave in DONE. -/
theorem statusFields : Obligations.StatusFields := by
  intro s v
  obtain ⟨hbusy, hdone, h2, h3⟩ := statusWord_lowBits s
  refine ⟨?_, hdone, h2, h3, statusWord_err s, code_le _, code_eq_zero_iff, fun hr => ?_,
    fun i t hp h => ?_, fun t hr h => ?_, statusWord_resetOf⟩
  · rw [hbusy, busy, Option.isSome_iff_ne_none]
  · have hd : (if v.getLsbD 1 then false else s.DONE) = (s.DONE && !v.getLsbD 1) := by
      cases v.getLsbD 1 <;> simp
    rw [busWrite_status hr, hd, writeStatus]
  · rw [exec_completes hp] at h
    cases h
    rfl
  · rw [busWrite_cmd hr] at h
    obtain ⟨e, rfl⟩ | ⟨-, i, -, rfl⟩ := cmdWrite_rejects_or_accepts h
    · rfl
    · rfl

/-- Settles O43: the write is the one of the register's own bits, and the read after it gives those bits. -/
theorem ieAndCfgFields : Obligations.IeAndCfgFields := by
  intro s v hr
  refine ⟨⟨_, busWrite_ie hr v, rfl, ?_⟩, fun hp =>
    ⟨_, busWrite_idle rfl hr hp (regAt_cfg _) (by decide) (by decide) (by decide) v, rfl, ?_⟩⟩
  · rw [← readReg_ie_writeIe v s]
    exact readsAs_of_exact rfl hr (regAt_ie _) (.inr rfl)
  · rw [← readReg_cfg_writeReg v s]
    exact readsAs_of_exact rfl hr (regAt_cfg _) (.inr rfl)

end Sys2Proof.Machine
end

/-! ## The read-only words, the counter and the keystream buffer -/

section
namespace Sys2Proof.Machine

/-- HWCFG as a number (R28). -/
theorem hwcfgWord_toNat (p : Config.Params) :
    (hwcfgWord p).toNat = ksBlocks p + (if p.ctrMax = .safe53 then 2 ^ 8 else 0) +
      (if p.order = .le then 2 ^ 9 else 0) := by
  obtain ⟨m, o, b⟩ := p
  revert b
  cases m <;> cases o <;> decide

theorem ctrMaxVal_eq_safe53_iff {m : Config.CtrMax} : ctrMaxVal m = 2 ^ 53 - 1 ↔ m = .safe53 := by
  cases m <;> decide

/-- Settles O45: HWCFG by its fields as a number, the accesses by the idle bus. -/
theorem idAndHwcfg : Obligations.IdAndHwcfg := by
  refine ⟨⟨rfl, fun p => ⟨(ksBlocks_le p).1, (ksBlocks_le p).2, ?_⟩⟩, fun s v hr hp => ⟨?_, ?_, ?_, ?_⟩⟩
  · simp only [hwcfgWord_toNat, ctrMaxVal_eq_safe53_iff]
  · exact readsAs_of_exact rfl hr (regAt_id _) (.inl hp)
  · exact readsAs_of_exact rfl hr (regAt_hwcfg _) (.inl hp)
  · exact busWrite_idle rfl hr hp (regAt_id _) (by decide) (by decide) (by decide) v
  · exact busWrite_idle rfl hr hp (regAt_hwcfg _) (by decide) (by decide) (by decide) v

/-- Settles O46: each write puts the word beside the other half, and the halves are quotient and remainder. -/
theorem ctrHalvesArePlainBinary : Obligations.CtrHalvesArePlainBinary := by
  intro s v hr hp
  refine ⟨⟨ctrOf (ctrHi s.CTR) v, ?_, ?_⟩, ⟨ctrOf v (ctrLo s.CTR), ?_, ?_⟩⟩
  · exact busWrite_idle rfl hr hp (regAt_ctrLo _) (by decide) (by decide) (by decide) v
  · rw [ctrOf_toNat, ctrHi_toNat]
  · exact busWrite_idle rfl hr hp (regAt_ctrHi _) (by decide) (by decide) (by decide) v
  · rw [ctrOf_toNat, ctrLo_toNat]

/-- Lane `j` of a word read from a memory is the byte at its address (R62). -/
theorem lane_word (m : Memory) (a : Nat) {j : Nat} (hj : j < 4) : lane (m.word a) j = m.byte (a + j) := by
  obtain ⟨h0, h1, h2, h3⟩ := lane_le32 (m.byte a) (m.byte (a + 1)) (m.byte (a + 2)) (m.byte (a + 3))
  interval_cases j
  · exact h0
  · exact h1
  · exact h2
  · exact h3

/-- Settles O47: the word read is the one of KSBUF, and its lane is the byte. -/
theorem ksbufByteView : Obligations.KsbufByteView := by
  intro s k hr hp hk
  have hbl := ksBlocks_le s.params
  have ho : offsetOk (0x400 + 4 * (k / 4)) = true := by rw [offsetOk_iff]; omega
  have hg : regAt s.params (0x400 + 4 * (k / 4)) = .ksbuf (k / 4) := regAt_ksbuf (by omega)
  refine ⟨⟨_, readsAs_of_exact ho hr hg (.inl hp), ?_⟩, fun v =>
    busWrite_idle ho hr hp hg Reg.noConfusion Reg.noConfusion Reg.noConfusion v⟩
  have ha : 0x400 + k = ksAddr (k / 4) + k % 4 := by simp only [ksAddr]; omega
  rw [ha, ← lane_word _ _ (Nat.mod_lt k (by decide)), lane_toNat, readReg]

end Sys2Proof.Machine
end

/-! ## Reset -/

section
namespace Sys2Proof.Machine

/-- In the reset state every register but ID and HWCFG holds 0 (R40). -/
theorem readReg_resetOf {p : Config.Params} {g : Reg} (hid : g ≠ .id) (hhw : g ≠ .hwcfg) :
    readReg g (State.resetOf p) = 0 := by
  cases g with
  | id => exact absurd rfl hid
  | hwcfg => exact absurd rfl hhw
  | status => exact statusWord_resetOf p
  | ie => exact BitVec.eq_of_toNat_eq (readReg_ie_toNat _)
  | cfg => exact BitVec.eq_of_toNat_eq (readReg_cfg_toNat _)
  | q i => fin_cases i <;> rfl
  | s i => fin_cases i <;> rfl
  | out i => fin_cases i <;> rfl
  | nonce i => fin_cases i <;> rfl
  | ctrLo => simp [readReg, State.resetOf, ctrLo]
  | ctrHi => simp [readReg, State.resetOf, ctrHi]
  | ksbuf w => exact BitVec.eq_of_toNat_eq (le32_toNat ..)
  | cmd | kslen | a | b | r | key | reserved => rfl

/-- ID and HWCFG stand at one offset each (R61). -/
theorem regAt_ne_id_hwcfg {p : Config.Params} {off : Nat} (ho : offsetOk off = true) (h0 : off ≠ 0x000)
    (hc : off ≠ 0x00C) : regAt p off ≠ .id ∧ regAt p off ≠ .hwcfg := by
  obtain h | ⟨i, rfl⟩ | ⟨i, rfl⟩ | ⟨i, rfl⟩ | ⟨i, rfl⟩ | ⟨i, rfl⟩ | ⟨w, hw, rfl⟩ | h := regAt_cases (p := p) ho
  · simp only [List.mem_cons, List.not_mem_nil, or_false, h0, hc, false_or] at h
    obtain rfl | rfl | rfl | rfl | rfl | rfl | rfl | rfl | rfl | rfl := h <;> simp
  · simp
  · simp
  · simp
  · simp
  · simp
  · simp [regAt_ksbuf hw]
  · simp [regAt_reserved h]

/-- Settles O51: the table by the reset state's own fields, the reads by `readReg_resetOf`. -/
theorem resetStateTable : Obligations.ResetStateTable := by
  intro p s
  have hq : ∀ i : Fin 4, s.Q[i] = 0 := fun i => readReg_resetOf (g := .q i) (by simp) (by simp)
  have hs : ∀ i : Fin 16, s.S[i] = 0 := fun i => readReg_resetOf (g := .s i) (by simp) (by simp)
  have hout : ∀ i : Fin 16, s.OUT[i] = 0 := fun i => readReg_resetOf (g := .out i) (by simp) (by simp)
  have hkey : ∀ i : Fin 8, s.KEY[i] = 0 := fun i => by fin_cases i <;> rfl
  have hnonce : ∀ i : Fin 2, s.NONCE[i] = 0 := fun i => readReg_resetOf (g := .nonce i) (by simp) (by simp)
  refine ⟨rfl, rfl, rfl, hq, hs, hout, hkey, hnonce, rfl, rfl, rfl, rfl, rfl, statusWord_resetOf p, rfl,
    fun a => rfl, rfl, ?_, ?_, fun off ho h0 hc => ?_⟩
  · exact readsAs_of_exact rfl rfl (regAt_id p) (.inr rfl)
  · exact readsAs_of_exact rfl rfl (regAt_hwcfg p) (.inr rfl)
  · obtain ⟨hid, hhw⟩ := regAt_ne_id_hwcfg (p := p) ho h0 hc
    rw [← readReg_resetOf (p := p) hid hhw]
    exact readsAs_of_exact ho rfl rfl (.inl rfl)

/-- An empty KSBUF and nothing in flight are a good state. -/
theorem goodState_of_empty {s : State} (hk : s.KSBUF = []) (hp : s.PEND = none) : GoodState s := by
  constructor
  · simp [ksOk, hk]
  · simp [pendOk, hp]

/-- Settles O52: the reset state has an empty KSBUF and nothing in flight. -/
theorem invHoldsAtReset : Obligations.InvHoldsAtReset :=
  ⟨fun _ => ⟨goodState_of_empty rfl rfl, rfl⟩, goodState_of_empty rfl rfl, rfl⟩

end Sys2Proof.Machine
end

/-! ## The step of the host and the engine, and the placed command word -/

section
namespace Sys2Proof.Machine

theorem step_engine {s : State} (hm : mover s = .engine) : step s = engineStep (popTurn s) := by
  simp only [step, hm]

theorem step_host {s : State} {m : HostMove} {rest : List HostMove} (hm : mover s = .host) (hh : s.host = m :: rest) :
    step s = hostMove m (popHost (popTurn s)) := by
  simp only [step, hm]
  exact hostStep_cons hh

theorem step_host_nil {s : State} (hm : mover s = .host) (hh : s.host = []) : step s = .next (popTurn s) := by
  simp only [step, hm]
  exact hostStep_nil hh

/-- Settles O6: the host's turn is its CMD write, which issues the decoded command. -/
theorem cmdWriteStepRunsDecodedCommand : Obligations.CmdWriteStepRunsDecodedCommand := by
  intro s w i rest hm hh hr hp hd
  rw [step_host hm hh, hostMove, busWrite_cmd (s := popHost (popTurn s)) hr,
    cmdWrite_command (s := popHost (popTurn s)) hp hd]

/-- The encoder writes the fields of its command (`EncodeFields`, for every command). -/
theorem encodeFields (i : Instr) : Sys2Proof.Laws.EncodeFields.Statement i := by
  cases i with
  | nop => exact Sys2Proof.Laws.EncodeFields.nop
  | wadd => exact Sys2Proof.Laws.EncodeFields.wadd
  | wxor => exact Sys2Proof.Laws.EncodeFields.wxor
  | wrotl n => exact Sys2Proof.Laws.EncodeFields.wrotl n
  | qr => exact Sys2Proof.Laws.EncodeFields.qr
  | colrnd => exact Sys2Proof.Laws.EncodeFields.colrnd
  | rowrnd => exact Sys2Proof.Laws.EncodeFields.rowrnd
  | dblrnd => exact Sys2Proof.Laws.EncodeFields.dblrnd
  | perm10 => exact Sys2Proof.Laws.EncodeFields.perm10
  | hash => exact Sys2Proof.Laws.EncodeFields.hash
  | expand => exact Sys2Proof.Laws.EncodeFields.expand
  | ksgen => exact Sys2Proof.Laws.EncodeFields.ksgen
  | clear => exact Sys2Proof.Laws.EncodeFields.clear

/-- The decoder gives an encoded command back (R80 to R85). -/
theorem decode_encode (i : Instr) : decode (encode i) = .command i := by
  obtain ⟨hop, himm, hrsv⟩ := encodeFields i
  have hmap : opcodeMap (opField (encode i)) (imm5Field (encode i)) = some i :=
    (opcodeMap_eq_some _ _ i).2 ⟨hop.symm, fun _ => himm.symm⟩
  have hi : ¬ (opField (encode i) ≠ 3 ∧ imm5Field (encode i) ≠ 0) := by
    rintro ⟨h3, h0⟩
    rw [hop] at h3
    exact h0 (himm.trans (imm5_of_opcode_ne h3))
  simp only [decode, hmap, hrsv, ne_eq, not_true_eq_false, if_false]
  exact if_neg hi

/-- The idle machine out of reset, no turn held: where `withFetchWord` puts a word (log entry 3). -/
def idled (s : State) : State := { s with PEND := none, rstN := true, turns := [] }

/-- A placed word is written to CMD: the placed state is the one after acceptance, or the idle machine with the
rejected write as the host's next move. -/
theorem withFetchWord_of_next {s t : State} {nbits w : Nat}
    (h : cmdWrite (BitVec.ofNat 32 (w % 2 ^ nbits)) (idled s) = .next t) :
    s.withFetchWord nbits w = if busy t = true then t
      else { idled s with host := .write cmdOff (BitVec.ofNat 32 (w % 2 ^ nbits)) :: s.host } := by
  rw [idled] at h
  simp only [State.withFetchWord, h]
  rfl

/-- The word of a command is accepted or rejected by the command's own check. -/
theorem withFetchWord_encode (s : State) (i : Instr) :
    s.withFetchWord 32 (encode i).toNat =
      if issueError i (idled s) = none then accept i (idled s)
      else { idled s with host := .write 0x004 (encode i) :: s.host } := by
  have hw : BitVec.ofNat 32 ((encode i).toNat % 2 ^ 32) = encode i := by
    rw [Nat.mod_eq_of_lt (encode i).isLt, BitVec.ofNat_toNat, BitVec.setWidth_eq]
  have hc : cmdWrite (BitVec.ofNat 32 ((encode i).toNat % 2 ^ 32)) (idled s) = exec i (idled s) := by
    rw [hw]
    exact cmdWrite_command rfl (decode_encode i)
  rcases he : issueError i (idled s) with _ | e
  · exact withFetchWord_of_next (hc.trans (exec_accepted rfl he))
  · rw [withFetchWord_of_next (hc.trans (exec_rejected rfl he)), hw]
    rfl

/-- Settles O7: after acceptance the engine moves next and completes the command; after a failed check the host's next
move is the CMD write, which is rejected. -/
theorem fetchWordRunsCommand : Obligations.FetchWordRunsCommand := by
  intro s i idle t
  have ht : t = if issueError i idle = none then accept i idle
      else { idle with host := .write 0x004 (encode i) :: s.host } := withFetchWord_encode s i
  constructor
  · intro he
    rw [if_pos he] at ht
    have hs : step t = exec i t := by
      rw [ht, step_engine rfl, engineStep_some (i := i) rfl rfl]
      rfl
    have hp : t.PEND = some i := by rw [ht]; rfl
    exact ⟨ht, hs, _, hs.trans (exec_completes hp), rfl, rfl⟩
  · intro e he
    rw [he, if_neg (by simp)] at ht
    rw [ht, step_host rfl rfl, hostMove, busWrite_cmd rfl, cmdWrite_command rfl (decode_encode i)]
    exact exec_rejected rfl he

end Sys2Proof.Machine
end

/-! ## What the commands and the host leave unchanged -/

section
namespace Sys2Proof.Machine

/-- Only the word commands and CLEAR write R (R22). -/
theorem effectOf_R {i : Instr} {s : State} (h : (effectOf i s).R ≠ s.R) :
    i = .wadd ∨ i = .wxor ∨ (∃ n, i = .wrotl n) ∨ i = .clear := by
  cases i with
  | wadd => exact .inl rfl
  | wxor => exact .inr (.inl rfl)
  | wrotl n => exact .inr (.inr (.inl ⟨n, rfl⟩))
  | clear => exact .inr (.inr (.inr rfl))
  | nop | qr | colrnd | rowrnd | dblrnd | perm10 | hash | expand | ksgen => exact absurd rfl h

/-- Only HASH, EXPAND and CLEAR write OUT (R25). -/
theorem effectOf_OUT {i : Instr} {s : State} (h : (effectOf i s).OUT ≠ s.OUT) :
    i = .hash ∨ i = .expand ∨ i = .clear := by
  cases i with
  | hash => exact .inl rfl
  | expand => exact .inr (.inl rfl)
  | clear => exact .inr (.inr rfl)
  | nop | wadd | wxor | wrotl | qr | colrnd | rowrnd | dblrnd | perm10 | ksgen => exact absurd rfl h

/-- Of the registers the host writes, only CLEAR writes KEY, NONCE, KSLEN, A and B (R22, R26, R33, R34). -/
theorem effectOf_hostRegs {i : Instr} (s : State) (h : i ≠ .clear) :
    (effectOf i s).KEY = s.KEY ∧ (effectOf i s).NONCE = s.NONCE ∧ (effectOf i s).KSLEN = s.KSLEN ∧
      (effectOf i s).A = s.A ∧ (effectOf i s).B = s.B := by
  cases i with
  | clear => exact absurd rfl h
  | nop | wadd | wxor | wrotl | qr | colrnd | rowrnd | dblrnd | perm10 | hash | expand | ksgen =>
    exact ⟨rfl, rfl, rfl, rfl, rfl⟩

/-- Only KSGEN and CLEAR write CTR (R35). -/
theorem effectOf_CTR {i : Instr} (s : State) (h1 : i ≠ .ksgen) (h2 : i ≠ .clear) : (effectOf i s).CTR = s.CTR := by
  cases i with
  | ksgen => exact absurd rfl h1
  | clear => exact absurd rfl h2
  | nop | wadd | wxor | wrotl | qr | colrnd | rowrnd | dblrnd | perm10 | hash | expand => rfl

/-- Everything an engine's step can do to a register: nothing, or what the effect of the command in flight does. -/
theorem step_engine_cases {s t : State} (h : step s = .next t) (hm : mover s = .engine) :
    t = popTurn s ∨ ∃ i, s.PEND = some i ∧ t = complete (effectOf i (popTurn s)) := by
  obtain ⟨-, -, ht⟩ | ⟨-, -, i, hi, ht⟩ | ⟨hh, -⟩ | ⟨hh, -⟩ := step_cases h
  · exact .inl ht
  · exact .inr ⟨i, hi, ht⟩
  · rw [hm] at hh; cases hh
  · rw [hm] at hh; cases hh

/-- Settles O56: by the frame of the effects. -/
theorem engineChangesKeyOnlyByClear : Obligations.EngineChangesKeyOnlyByClear := by
  intro s t h hm
  obtain rfl | ⟨i, hi, rfl⟩ := step_engine_cases h hm
  · simp
  · obtain ⟨-, hk, hd, he, -, herr, -⟩ := effectOf_frame i (popTurn s)
    refine ⟨fun hc => ?_, fun hc hg => ?_, hk, hd, he, herr⟩
    · exact effectOf_hostRegs (popTurn s) (fun hic => hc (hic ▸ hi))
    · exact effectOf_CTR (popTurn s) (fun hig => hg (hig ▸ hi)) (fun hic => hc (hic ▸ hi))

/-- What no access of the host changes: the parameters and the results R, OUT and KSBUF. -/
def sameResults (s t : State) : Prop :=
  t.params = s.params ∧ t.R = s.R ∧ t.OUT = s.OUT ∧ t.KSBUF = s.KSBUF

theorem sameResults_refl (s : State) : sameResults s s := ⟨rfl, rfl, rfl, rfl⟩

theorem sameResults_writeReg (g : Reg) (v : Word) (s : State) : sameResults s (writeReg g v s) := by
  cases g <;> exact ⟨rfl, rfl, rfl, rfl⟩

/-- A bus write leaves the parameters and the results (R68). -/
theorem busWrite_sameResults {off : Nat} {v : Word} {s t : State} (h : busWrite off v s = .next t) :
    sameResults s t := by
  obtain ⟨-, ⟨-, rfl⟩ | ⟨-, -, rfl⟩ | ⟨-, -, rfl⟩ | ⟨-, -, hc⟩ | ⟨-, -, rfl⟩ | ⟨-, -, rfl⟩⟩ := busWrite_cases h
  · exact sameResults_refl _
  · exact ⟨rfl, rfl, rfl, rfl⟩
  · exact ⟨rfl, rfl, rfl, rfl⟩
  · obtain ⟨e, rfl⟩ | ⟨-, i, -, rfl⟩ := cmdWrite_rejects_or_accepts hc
    · exact ⟨rfl, rfl, rfl, rfl⟩
    · exact ⟨rfl, rfl, rfl, rfl⟩
  · exact ⟨rfl, rfl, rfl, rfl⟩
  · exact sameResults_writeReg _ _ _

/-- A bus read leaves the parameters and the results (R67). -/
theorem busRead_sameResults {off : Nat} {s t : State} (h : busRead off s = .next t) : sameResults s t := by
  obtain ⟨-, ⟨-, rfl⟩ | ⟨-, -, -, rfl⟩ | ⟨-, -, rfl⟩⟩ := busRead_cases h
  · exact ⟨rfl, rfl, rfl, rfl⟩
  · exact ⟨rfl, rfl, rfl, rfl⟩
  · exact ⟨rfl, rfl, rfl, rfl⟩

/-- A move of the host leaves the results, but for the release of reset, which leaves the parameters. -/
theorem hostMove_sameResults {m : HostMove} {s t : State} (h : hostMove m s = .next t) :
    sameResults s t ∨ (m = .rst true ∧ s.rstN = false ∧ t.params = s.params) := by
  cases m with
  | write off v => exact .inl (busWrite_sameResults h)
  | read off => exact .inl (busRead_sameResults h)
  | rst level =>
    obtain rfl := Host.Outcome.next.inj h
    cases level with
    | false => exact .inl ⟨rfl, rfl, rfl, rfl⟩
    | true =>
      cases hr : s.rstN with
      | true => exact .inl (by simp [drivePin, hr, sameResults_refl])
      | false => exact .inr ⟨rfl, rfl, by simp [drivePin, hr, resetInPlace, State.resetOf]⟩

/-- Settles O55: the engine's step by the effect of the command in flight, the host's by `hostMove_sameResults`. -/
theorem onlyTheNamedCommandsWriteResults : Obligations.OnlyTheNamedCommandsWriteResults := by
  intro s t h
  obtain ⟨-, -, rfl⟩ | ⟨hm, -, i, hi, rfl⟩ | ⟨-, -, rfl⟩ | ⟨hm, m, rest, hh, ht⟩ := step_cases h
  · simp
  · refine ⟨(effectOf_frame i (popTurn s)).1, .inr ⟨fun hR => ⟨hm, ?_⟩, fun hO => ⟨hm, ?_⟩, fun hK => ⟨hm, ?_⟩⟩⟩
    · simpa [hi] using effectOf_R (s := popTurn s) hR
    · simpa [hi] using effectOf_OUT (s := popTurn s) hO
    · by_contra hn
      simp only [hi, Option.some.injEq, not_or] at hn
      exact hK (effectOf_KSBUF (s := popTurn s) hn.1 hn.2)
  · simp
  · obtain ⟨hp, hR, hO, hK⟩ | ⟨rfl, hr, hp⟩ := hostMove_sameResults ht
    · exact ⟨hp, .inr ⟨fun h => absurd hR h, fun h => absurd hO h, fun h => absurd hK h⟩⟩
    · exact ⟨hp, .inl ⟨rest, hm, hh, hr⟩⟩

end Sys2Proof.Machine
end

/-! ## Independence of the key -/

section
namespace Sys2Proof.Machine

/-- The state with `key` in KEY. -/
def withKey (key : Vector Word 8) (s : State) : State := { s with KEY := key }

@[simp] theorem withKey_params (key : Vector Word 8) (s : State) : (withKey key s).params = s.params := rfl
@[simp] theorem withKey_CTR (key : Vector Word 8) (s : State) : (withKey key s).CTR = s.CTR := rfl
@[simp] theorem withKey_rstN (key : Vector Word 8) (s : State) : (withKey key s).rstN = s.rstN := rfl
@[simp] theorem busy_withKey (key : Vector Word 8) (s : State) : busy (withKey key s) = busy s := rfl

/-- Two outcomes that agree but for the register KEY: both go on, to states that differ at most there, or both refuse
for one reason. -/
inductive AgreeButKey : Host.Outcome State Fault Refusal → Host.Outcome State Fault Refusal → Prop
  | next (t : State) (key : Vector Word 8) : AgreeButKey (.next t) (.next (withKey key t))
  | refused (r : Refusal) : AgreeButKey (.refused r) (.refused r)

/-- When one of two agreeing outcomes has a next state, so has the other, the same but for KEY. -/
theorem AgreeButKey.exists_next {o o' : Host.Outcome State Fault Refusal} {t : State} (h : AgreeButKey o o')
    (ho : o = .next t) : ∃ t', o' = .next t' ∧ t' = { t with KEY := t'.KEY } := by
  cases h with
  | next u key => cases ho; exact ⟨_, rfl, rfl⟩
  | refused r => cases ho

/-- No command's check reads KEY (R165, R171, R172). -/
theorem issueError_withKey (i : Instr) (s : State) (key : Vector Word 8) :
    issueError i (withKey key s) = issueError i s := by
  cases i <;> rfl

/-- At issue no command reads KEY: it is accepted or rejected alike. -/
theorem exec_idle_agreeButKey (i : Instr) {s : State} (key : Vector Word 8) (hp : s.PEND = none) :
    AgreeButKey (exec i s) (exec i (withKey key s)) := by
  rcases he : issueError i s with _ | e
  · rw [exec_accepted hp he, exec_accepted (s := withKey key s) hp ((issueError_withKey i s key).trans he)]
    exact .next _ key
  · rw [exec_rejected hp he, exec_rejected (s := withKey key s) hp ((issueError_withKey i s key).trans he)]
    exact .next _ key

theorem cmdWrite_agreeButKey (w : Word) (s : State) (key : Vector Word 8) :
    AgreeButKey (cmdWrite w s) (cmdWrite w (withKey key s)) := by
  rw [cmdWrite, cmdWrite, busy_withKey]
  split
  · exact .next _ key
  · rename_i h
    split
    · exact .next _ key
    · exact exec_idle_agreeButKey _ key (by simpa [busy] using h)

/-- A write of a register leaves KEY, or sets a word of it. -/
theorem writeReg_agreeButKey (g : Reg) (v : Word) (s : State) (key : Vector Word 8) :
    AgreeButKey (.next (writeReg g v s)) (.next (writeReg g v (withKey key s))) := by
  cases g with
  | key i => exact .next _ (key.set i v)
  | _ => exact .next _ key

theorem busWrite_agreeButKey (off : Nat) (v : Word) (s : State) (key : Vector Word 8) :
    AgreeButKey (busWrite off v s) (busWrite off v (withKey key s)) := by
  rw [busWrite, busWrite, busy_withKey, withKey_rstN, withKey_params]
  split
  · exact .refused _
  · split
    · exact .next _ key
    · split
      · exact .next _ key
      · exact .next _ key
      · exact cmdWrite_agreeButKey v s key
      · split
        · exact .next _ key
        · exact writeReg_agreeButKey _ v s key

/-- No read returns a word of KEY (R26, R70). -/
theorem readReg_withKey (g : Reg) (s : State) (key : Vector Word 8) :
    readReg g (withKey key s) = readReg g s := by
  cases g <;> rfl

theorem busRead_agreeButKey (off : Nat) (s : State) (key : Vector Word 8) :
    AgreeButKey (busRead off s) (busRead off (withKey key s)) := by
  rw [busRead, busRead, busy_withKey, withKey_rstN, withKey_params, readReg_withKey]
  split
  · exact .refused _
  · split
    · exact .next _ key
    · split
      · exact .next _ key
      · exact .next _ key

theorem drivePin_agreeButKey (level : Bool) (s : State) (key : Vector Word 8) :
    AgreeButKey (.next (drivePin level s)) (.next (drivePin level (withKey key s))) := by
  rw [drivePin, drivePin, withKey_rstN]
  split
  · split
    · exact .next _ key
    · exact .next _ (State.resetOf s.params).KEY
  · exact .next _ key

theorem hostMove_agreeButKey (m : HostMove) (s : State) (key : Vector Word 8) :
    AgreeButKey (hostMove m s) (hostMove m (withKey key s)) := by
  cases m with
  | write off v => exact busWrite_agreeButKey off v s key
  | read off => exact busRead_agreeButKey off s key
  | rst level => exact drivePin_agreeButKey level s key

/-- Settles O58: the host's turn is empty or one move, and no move depends on KEY. -/
theorem hostStepsDoNotRevealTheKey : Obligations.HostStepsDoNotRevealTheKey := by
  intro s t key h hm
  have hm' : mover (withKey key s) = .host := hm
  refine AgreeButKey.exists_next (o' := step (withKey key s)) ?_ h
  rcases hh : s.host with _ | ⟨m, rest⟩
  · rw [step_host_nil hm hh, step_host_nil hm' hh]
    exact .next _ key
  · rw [step_host hm hh, step_host hm' hh]
    exact hostMove_agreeButKey m (popHost (popTurn s)) key

/-- Two keys with the same first four words give a 128-bit key's expansion the same input (R26, R164). -/
theorem inputAt_shortKey {s : State} {key : Vector Word 8} (hz : s.KEYSZ = false)
    (hk : ∀ j : Fin 4, key[j] = s.KEY[j]) (c : Counter) : inputAt (withKey key s) c = inputAt s c := by
  have h0 : key[0] = s.KEY[0] := hk 0
  have h1 : key[1] = s.KEY[1] := hk 1
  have h2 : key[2] = s.KEY[2] := hk 2
  have h3 : key[3] = s.KEY[3] := hk 3
  simp [inputAt, withKey, xin, secondKey, hz, h0, h1, h2, h3]

theorem ksWrite_shortKey {s : State} {key : Vector Word 8} (hz : s.KEYSZ = false)
    (hk : ∀ j : Fin 4, key[j] = s.KEY[j]) (n : Nat) : ksWrite (withKey key s) n = ksWrite s n := by
  induction n with
  | zero => rfl
  | succ n ih => rw [ksWrite, ksWrite, ih, inputAt_shortKey hz hk, withKey_CTR]

/-- With a 128-bit key every effect is the same but for KEY itself. -/
theorem effectOf_shortKey (i : Instr) {s : State} {key : Vector Word 8} (hz : s.KEYSZ = false)
    (hk : ∀ j : Fin 4, key[j] = s.KEY[j]) :
    ∃ key', effectOf i (withKey key s) = withKey key' (effectOf i s) := by
  cases i with
  | expand =>
    refine ⟨key, ?_⟩
    simp only [effectOf, expandEffect, inputAt_shortKey hz hk]
    rfl
  | ksgen =>
    refine ⟨key, ?_⟩
    simp only [effectOf, ksgenEffect, ksWrite_shortKey hz hk]
    rfl
  | clear => exact ⟨Vector.replicate 8 0, rfl⟩
  | nop | wadd | wxor | wrotl | qr | colrnd | rowrnd | dblrnd | perm10 | hash => exact ⟨key, rfl⟩

/-- With a 128-bit key every step of every command agrees but for KEY. -/
theorem exec_agreeButKey (i : Instr) {s : State} {key : Vector Word 8} (hz : s.KEYSZ = false)
    (hk : ∀ j : Fin 4, key[j] = s.KEY[j]) : AgreeButKey (exec i s) (exec i (withKey key s)) := by
  rcases hp : s.PEND with _ | j
  · exact exec_idle_agreeButKey i key hp
  · by_cases hij : j = i
    · subst hij
      obtain ⟨key', he⟩ := effectOf_shortKey j hz hk
      rw [exec_completes hp, exec_completes (s := withKey key s) hp, he]
      exact .next _ key'
    · rw [exec_busy hp hij, exec_busy (s := withKey key s) hp hij]
      exact .next _ key

/-- Settles O33: the two keys have the same first four words, so every outcome agrees but for KEY. -/
theorem shortKeyIgnoresKey1 : Obligations.ShortKeyIgnoresKey1 := by
  intro i s k4 k5 k6 k7 hz key'
  have hk : ∀ j : Fin 4, key'[j] = s.KEY[j] := fun j => by fin_cases j <;> rfl
  obtain ⟨t, ht⟩ := exec_next i s
  obtain ⟨t', ht', heq⟩ := (exec_agreeButKey i hz hk).exists_next ht
  exact ⟨t, t', ht, ht', heq⟩

end Sys2Proof.Machine
end

/-! ## Idle and dropped accesses by the register

A write of any register but CMD by the idle machine is one update of the state, `idleWrite`; what it leaves is said
once, by the register read (spec/20_memory.md R67 to R69). -/

section
namespace Sys2Proof.Machine

/-- What the idle machine does at a write of a register other than CMD (R30, R31, R69). -/
def idleWrite (g : Reg) (v : Word) (s : State) : State :=
  match g with
  | .status => writeStatus v s
  | .ie => writeIe v s
  | g => writeReg g v s

theorem busWrite_eq_idleWrite {s : State} {off : Nat} (ho : offsetOk off = true) (hr : s.rstN = true)
    (hp : s.PEND = none) (hc : off ≠ 0x004) (v : Word) :
    busWrite off v s = .next (idleWrite (regAt s.params off) v s) := by
  cases hg : regAt s.params off with
  | status => obtain rfl := off_of_status hg; exact busWrite_status hr v
  | ie => obtain rfl := off_of_ie hg; exact busWrite_ie hr v
  | cmd => exact absurd (off_of_cmd hg) hc
  | _ => exact busWrite_idle ho hr hp hg Reg.noConfusion Reg.noConfusion Reg.noConfusion v

/-- A write of a register other than CMD, STATUS and IE while a command is in flight is dropped (R240). -/
theorem busWrite_busy {s : State} {off : Nat} {g : Reg} (ho : offsetOk off = true) (hr : s.rstN = true)
    (hp : s.PEND ≠ none) (hg : regAt s.params off = g) (hc : g ≠ .cmd) (hs : g ≠ .status) (hi : g ≠ .ie) (v : Word) :
    busWrite off v s = .next (recordErr .busy s) := by
  subst hg
  have hb : busy s = true := by rwa [← Bool.not_eq_false, busy_eq_false_iff]
  simp only [busWrite, ho, hr, hb, Bool.not_true, Bool.false_eq_true, if_false, if_true]

@[simp] theorem idleWrite_params (g : Reg) (v : Word) (s : State) : (idleWrite g v s).params = s.params := by
  cases g <;> rfl

@[simp] theorem idleWrite_PEND (g : Reg) (v : Word) (s : State) : (idleWrite g v s).PEND = s.PEND := by
  cases g <;> rfl

@[simp] theorem idleWrite_KSBUF (g : Reg) (v : Word) (s : State) : (idleWrite g v s).KSBUF = s.KSBUF := by
  cases g <;> rfl

@[simp] theorem idleWrite_rstN (g : Reg) (v : Word) (s : State) : (idleWrite g v s).rstN = s.rstN := by
  cases g <;> rfl

/-- A key word changes only by a write of that word (R26). -/
theorem idleWrite_KEY_ne {g : Reg} {i : Fin 8} (h : g ≠ .key i) (v : Word) (s : State) :
    (idleWrite g v s).KEY[i] = s.KEY[i] := by
  cases g with
  | key j =>
    have hij : (j : Nat) ≠ i := fun hji => h (congrArg Reg.key (Fin.ext hji))
    exact Vector.getElem_set_ne j.isLt i.isLt hij
  | _ => rfl

/-- An idle write leaves what every other register holds for a read (R67). -/
theorem readReg_idleWrite_ne {g g' : Reg} (h : g' ≠ g) (v : Word) (s : State) :
    readReg g' (idleWrite g v s) = readReg g' s := by
  cases g with
  | q i =>
    cases g' with
    | q j => exact Vector.getElem_set_ne i.isLt j.isLt fun hij => h (congrArg Reg.q (Fin.ext hij.symm))
    | _ => rfl
  | s i =>
    cases g' with
    | s j => exact Vector.getElem_set_ne i.isLt j.isLt fun hij => h (congrArg Reg.s (Fin.ext hij.symm))
    | _ => rfl
  | nonce i =>
    cases g' with
    | nonce j => exact Vector.getElem_set_ne i.isLt j.isLt fun hij => h (congrArg Reg.nonce (Fin.ext hij.symm))
    | _ => rfl
  | ctrLo =>
    cases g' with
    | ctrLo => exact absurd rfl h
    | ctrHi => exact ctrHi_ctrOf _ _
    | _ => rfl
  | ctrHi =>
    cases g' with
    | ctrHi => exact absurd rfl h
    | ctrLo => exact ctrLo_ctrOf _ _
    | _ => rfl
  -- `h` excludes the register written, and no other one reads its field.
  | status | ie | cfg | kslen | a | b => cases g' <;> trivial
  | id | cmd | hwcfg | r | out | key | ksbuf | reserved => cases g' <;> rfl

/-- With nothing in flight a read returns what the register there holds, and nothing else is read (R67). -/
theorem readsAs_iff_of_idle {s : State} {off : Nat} {x : Word} (hr : s.rstN = true) (hp : s.PEND = none) :
    readsAs s off x ↔ offsetOk off = true ∧ x = readReg (regAt s.params off) s := by
  constructor
  · intro h
    obtain ⟨ho, -⟩ := busRead_cases h
    refine ⟨ho, ?_⟩
    have hx := (readsAs_of_exact ho hr rfl (.inl hp)).symm.trans h
    exact (congrArg State.rdata (Host.Outcome.next.inj hx)).symm
  · rintro ⟨ho, rfl⟩
    exact readsAs_of_exact ho hr rfl (.inl hp)

/-- The read after an idle write is of the state written. -/
theorem readsAs_idleWrite_iff {s : State} {g : Reg} {off : Nat} {v x : Word} (hr : s.rstN = true)
    (hp : s.PEND = none) :
    readsAs (idleWrite g v s) off x ↔
      offsetOk off = true ∧ x = readReg (regAt s.params off) (idleWrite g v s) := by
  rw [readsAs_iff_of_idle ((idleWrite_rstN g v s).trans hr) ((idleWrite_PEND g v s).trans hp), idleWrite_params]

end Sys2Proof.Machine
end

/-! ## The rows of the address map -/

section
namespace Sys2Proof.Machine

/-- An aligned offset of a run of `n` words is one of them. -/
theorem exists_fin_of_run {off lo n : Nat} (h4 : off % 4 = 0) (hlo : lo % 4 = 0) (h : lo ≤ off) (hn : off < lo + 4 * n) :
    ∃ i : Fin n, off = lo + 4 * i :=
  ⟨⟨(off - lo) / 4, by omega⟩, by simp only; omega⟩

/-- The words of a run that lies in the window are offsets of the port (R65). -/
theorem offsetOk_run {lo n : Nat} (hlo : lo % 4 = 0) (hn : lo + 4 * n ≤ 0x800) (i : Fin n) :
    offsetOk (lo + 4 * i) = true := by
  have hi := i.isLt
  rw [offsetOk_iff]
  omega

/-- The offset of a register (R61); the reserved words have many, and 0 is put for them. -/
def regOff : Reg → Nat
  | .id => 0x000
  | .cmd => 0x004
  | .status => 0x008
  | .hwcfg => 0x00C
  | .ie => 0x010
  | .cfg => 0x014
  | .kslen => 0x018
  | .a => 0x020
  | .b => 0x024
  | .r => 0x028
  | .q i => 0x030 + 4 * i
  | .s i => 0x040 + 4 * i
  | .out i => 0x080 + 4 * i
  | .key i => 0x0C0 + 4 * i
  | .nonce i => 0x0E0 + 4 * i
  | .ctrLo => 0x0E8
  | .ctrHi => 0x0EC
  | .ksbuf w => 0x400 + 4 * w
  | .reserved => 0

/-- Every register but the reserved words stands at one offset (R61). -/
theorem regOff_regAt {p : Config.Params} {off : Nat} (ho : offsetOk off = true) (hg : regAt p off ≠ .reserved) :
    regOff (regAt p off) = off := by
  obtain h | ⟨i, rfl⟩ | ⟨i, rfl⟩ | ⟨i, rfl⟩ | ⟨i, rfl⟩ | ⟨i, rfl⟩ | ⟨w, hw, rfl⟩ | h := regAt_cases (p := p) ho
  · simp only [List.mem_cons, List.not_mem_nil, or_false] at h
    obtain rfl | rfl | rfl | rfl | rfl | rfl | rfl | rfl | rfl | rfl | rfl | rfl := h <;> rfl
  · rw [regAt_q, regOff]
  · rw [regAt_s, regOff]
  · rw [regAt_out, regOff]
  · rw [regAt_key, regOff]
  · rw [regAt_nonce, regOff]
  · rw [regAt_ksbuf hw, regOff]
  · exact absurd (regAt_reserved h) hg

/-- Two offsets with one register are one offset, but for the reserved words (R61). -/
theorem regAt_inj {p : Config.Params} {off off' : Nat} (ho : offsetOk off = true) (ho' : offsetOk off' = true)
    (hg : regAt p off ≠ .reserved) (h : regAt p off' = regAt p off) : off' = off := by
  rw [← regOff_regAt ho hg, ← h, regOff_regAt ho' (h ▸ hg)]

/-- The 32-bit RW registers, which a write sets whole (R69). -/
def rwReg : Reg → Bool
  | .kslen | .a | .b | .q _ | .s _ | .nonce _ | .ctrLo | .ctrHi => true
  | .id | .cmd | .status | .hwcfg | .ie | .cfg | .r | .out _ | .key _ | .ksbuf _ | .reserved => false

theorem rwReg_regAt {p : Config.Params} {off : Nat} (ho : offsetOk off = true) (h : rwOff off = true) :
    rwReg (regAt p off) = true := by
  obtain ⟨h4, -⟩ := offsetOk_iff.1 ho
  simp only [rwOff, Bool.or_eq_true, Bool.and_eq_true, beq_iff_eq, decide_eq_true_eq] at h
  obtain ((((rfl | rfl) | rfl) | ⟨hlo, hhi⟩) | ⟨hlo, hhi⟩) | ⟨hlo, hhi⟩ := h
  · rfl
  · rfl
  · rfl
  · obtain ⟨i, rfl⟩ := exists_fin_of_run (n := 4) h4 rfl hlo (by omega)
    rw [regAt_q, rwReg]
  · obtain ⟨i, rfl⟩ := exists_fin_of_run (n := 16) h4 rfl hlo (by omega)
    rw [regAt_s, rwReg]
  · obtain ⟨i, rfl⟩ := exists_fin_of_run (n := 4) h4 rfl hlo (by omega)
    fin_cases i <;> rfl

/-- A 32-bit RW register holds the word last written (R69). -/
theorem readReg_idleWrite_same {g : Reg} (h : rwReg g = true) (v : Word) (s : State) :
    readReg g (idleWrite g v s) = v := by
  cases g with
  | kslen | a | b => rfl
  | q i => exact Vector.getElem_set_self i.isLt
  | s i => exact Vector.getElem_set_self i.isLt
  | nonce i => exact Vector.getElem_set_self i.isLt
  | ctrLo => exact ctrLo_ctrOf _ _
  | ctrHi => exact ctrHi_ctrOf _ _
  | id | cmd | status | hwcfg | ie | cfg | r | out | key | ksbuf | reserved => cases h

/-- The registers whose idle write is ignored: RO registers and reserved words (R68). -/
def readOnlyReg : Reg → Bool
  | .id | .hwcfg | .r | .out _ | .ksbuf _ | .reserved => true
  | .cmd | .status | .ie | .cfg | .kslen | .a | .b | .q _ | .s _ | .key _ | .nonce _ | .ctrLo | .ctrHi => false

theorem readOnlyReg_regAt {p : Config.Params} {off : Nat} (ho : offsetOk off = true) (h : ignoredOff off = true) :
    readOnlyReg (regAt p off) = true := by
  obtain ⟨h4, -⟩ := offsetOk_iff.1 ho
  simp only [ignoredOff, Bool.or_eq_true, Bool.and_eq_true, beq_iff_eq, decide_eq_true_eq] at h
  obtain (((((rfl | rfl) | rfl) | rfl) | rfl) | ⟨hlo, hhi⟩) | ⟨hlo, -⟩ := h
  · rfl
  · rfl
  · rfl
  · rfl
  · rfl
  · obtain ⟨i, rfl⟩ := exists_fin_of_run (n := 16) h4 rfl hlo (by omega)
    rw [regAt_out, readOnlyReg]
  · rw [regAt_high hlo]
    split <;> rfl

theorem writeReg_readOnly {g : Reg} (h : readOnlyReg g = true) (v : Word) (s : State) : writeReg g v s = s := by
  cases g with
  | id | hwcfg | r | out | ksbuf | reserved => rfl
  | cmd | status | ie | cfg | kslen | a | b | q | s | key | nonce | ctrLo | ctrHi => cases h

/-- CMD, STATUS and IE, which have writes of their own, are not read-only. -/
theorem ne_of_readOnlyReg {g : Reg} (h : readOnlyReg g = true) : g ≠ .cmd ∧ g ≠ .status ∧ g ≠ .ie := by
  refine ⟨?_, ?_, ?_⟩ <;> rintro rfl <;> cases h

/-- Reserved words, CMD and KEY hold 0 for a read and are not volatile (R68, R241). -/
theorem readsAs_zero {s : State} {off : Nat} (ho : offsetOk off = true) (hr : s.rstN = true)
    (h : reservedOff s.params off = true ∨ off = 0x004 ∨ (0x0C0 ≤ off ∧ off ≤ 0x0DC)) : readsAs s off 0 := by
  obtain h | rfl | ⟨hlo, hhi⟩ := h
  · exact readsAs_of_exact ho hr (regAt_reserved h) (.inr rfl)
  · exact readsAs_of_exact ho hr (regAt_cmd _) (.inr rfl)
  · obtain ⟨h4, -⟩ := offsetOk_iff.1 ho
    obtain ⟨i, rfl⟩ := exists_fin_of_run (n := 8) h4 rfl hlo (by omega)
    exact readsAs_of_exact ho hr (regAt_key _ i) (.inr rfl)

/-- IE as the two bits it holds, extended by zeros (R31). -/
theorem readReg_ie_setWidth (s : State) :
    readReg .ie s = (BitVec.ofBool s.ERRIE ++ BitVec.ofBool s.DONEIE).setWidth 32 := by
  simp only [readReg]
  cases s.ERRIE <;> cases s.DONEIE <;> rfl

/-- CFG as the bit it holds, extended by zeros (R32). -/
theorem readReg_cfg_setWidth (s : State) : readReg .cfg s = (BitVec.ofBool s.KEYSZ).setWidth 32 := by
  simp only [readReg]
  cases s.KEYSZ <;> rfl

/-- Settles O38: every idle read is exact, row by row of the map. -/
theorem idleReadsFollowTheMap : Obligations.IdleReadsFollowTheMap := by
  intro s hr hp
  have reads {off : Nat} {g : Reg} (ho : offsetOk off = true) (hg : regAt s.params off = g) :
      readsAs s off (readReg g s) := readsAs_of_exact ho hr hg (.inl hp)
  have hblocks := (ksBlocks_le s.params).2
  refine ⟨reads rfl (regAt_id _), reads rfl (regAt_cmd _), reads rfl (regAt_status _), reads rfl (regAt_hwcfg _),
    ?ie, ?cfg, reads rfl (regAt_kslen _), reads rfl (regAt_a _), reads rfl (regAt_b _), reads rfl (regAt_r _),
    fun i => reads (offsetOk_run rfl (by decide) i) (regAt_q _ i),
    fun i => reads (offsetOk_run rfl (by decide) i) (regAt_s _ i),
    fun i => reads (offsetOk_run rfl (by decide) i) (regAt_out _ i),
    fun i => reads (offsetOk_run rfl (by decide) i) (regAt_key _ i),
    fun i => reads (offsetOk_run rfl (by decide) i) (regAt_nonce _ i),
    reads rfl (regAt_ctrLo _), reads rfl (regAt_ctrHi _),
    fun w hw => reads (offsetOk_iff.2 (by omega)) (regAt_ksbuf hw),
    fun off ho h => readsAs_zero ho hr (.inl h)⟩
  case ie => exact readReg_ie_setWidth s ▸ reads rfl (regAt_ie _)
  case cfg => exact readReg_cfg_setWidth s ▸ reads rfl (regAt_cfg _)

/-- Settles O39: the write sets the register whole, and the read is of the state written. -/
theorem writeThenReadReturnsTheValue : Obligations.WriteThenReadReturnsTheValue := by
  intro s v hr hp
  refine ⟨fun off ho hrw => ?_, fun i => ?_⟩
  · have hc : off ≠ 0x004 := by rintro rfl; cases hrw
    exact ⟨_, busWrite_eq_idleWrite ho hr hp hc v, (readsAs_idleWrite_iff hr hp).2
      ⟨ho, (readReg_idleWrite_same (rwReg_regAt ho hrw) v s).symm⟩⟩
  · have ho := offsetOk_run (lo := 0x0C0) rfl (by decide) i
    have hw := busWrite_eq_idleWrite ho hr hp (by omega) v
    rw [regAt_key] at hw
    refine ⟨_, hw, rfl, (readsAs_idleWrite_iff hr hp).2 ⟨ho, ?_⟩⟩
    rw [regAt_key, readReg]

/-- Settles O40: the write is of one register, and another offset holds another register or nothing is written. -/
theorem idleWriteLeavesOtherRegisters : Obligations.IdleWriteLeavesOtherRegisters := by
  intro s off v ho hr hp hc
  refine ⟨_, busWrite_eq_idleWrite ho hr hp hc v, (idleWrite_PEND _ v s).trans hp, idleWrite_KSBUF _ v s,
    idleWrite_params _ v s, fun i hi => idleWrite_KEY_ne (fun hg => hi ?_) v s, fun off' x hne hx => ?_⟩
  · rw [← regOff_regAt (p := s.params) ho (hg ▸ Reg.noConfusion), hg, regOff]
  · obtain ⟨ho', rfl⟩ := (readsAs_iff_of_idle hr hp).1 hx
    refine (readsAs_idleWrite_iff hr hp).2 ⟨ho', ?_⟩
    by_cases hg : regAt s.params off = .reserved
    · rw [hg]
      rfl
    · exact (readReg_idleWrite_ne (fun h => hne (regAt_inj ho ho' hg h)) v s).symm

/-- Settles O41: the read words are not volatile, and the write is of a read-only register. -/
theorem reservedAndReadOnlyWords : Obligations.ReservedAndReadOnlyWords := by
  intro s off v ho hr
  refine ⟨readsAs_zero ho hr, fun hp hig => ?_, fun hp hig => ?_⟩
  · have hro := readOnlyReg_regAt (p := s.params) ho hig
    obtain ⟨hc, hs, hi⟩ := ne_of_readOnlyReg hro
    rw [busWrite_idle ho hr hp rfl hc hs hi, writeReg_readOnly hro]
  · obtain ⟨hc, hs, hi⟩ := ne_of_readOnlyReg (readOnlyReg_regAt (p := s.params) ho hig)
    exact busWrite_busy ho hr hp rfl hc hs hi v

end Sys2Proof.Machine
end

/-! ## Refusals

A step has a next state unless the host's next move is no access of the port (spec/20_memory.md R65). -/

section
namespace Sys2Proof.Machine

theorem offsetOk_eq_false_iff {off : Nat} : offsetOk off = false ↔ off % 4 ≠ 0 ∨ 0x800 ≤ off := by
  rw [← Bool.not_eq_true, offsetOk_iff]
  omega

theorem busWrite_notAnAccess {off : Nat} (ho : offsetOk off = false) (v : Word) (s : State) :
    busWrite off v s = .refused (.notAnAccess off) := by
  simp [busWrite, ho]

theorem busRead_notAnAccess {off : Nat} (ho : offsetOk off = false) (s : State) :
    busRead off s = .refused (.notAnAccess off) := by
  simp [busRead, ho]

/-- The engine's turn always has a next state: "No command can fail after acceptance" (R204). -/
theorem engineStep_next (s : State) : ∃ t, engineStep s = .next t := by
  rw [engineStep]
  split
  · exact ⟨_, rfl⟩
  · split
    · exact exec_next _ s
    · exact ⟨_, rfl⟩

/-- A refused move is an access at an offset that is not one of the port (R65). -/
theorem hostMove_refused {m : HostMove} {s : State} {r : Refusal} (h : hostMove m s = .refused r) :
    ∃ off, offsetOk off = false ∧ r = .notAnAccess off ∧ ((∃ v, m = .write off v) ∨ m = .read off) := by
  have hwf : m.wf = false := by
    by_contra hm
    obtain ⟨t, ht⟩ := hostMove_next (s := s) (Bool.of_not_eq_false hm)
    rw [ht] at h
    cases h
  cases m with
  | write off v =>
    rw [hostMove, busWrite_notAnAccess hwf] at h
    cases h
    exact ⟨off, hwf, rfl, .inl ⟨v, rfl⟩⟩
  | read off =>
    rw [hostMove, busRead_notAnAccess hwf] at h
    cases h
    exact ⟨off, hwf, rfl, .inr rfl⟩
  | rst level => cases hwf

/-- A refused step is the host's, and its next move is refused. -/
theorem step_refused {s : State} {r : Refusal} (h : step s = .refused r) :
    mover s = .host ∧ ∃ m rest, s.host = m :: rest ∧ hostMove m (popHost (popTurn s)) = .refused r := by
  cases hm : mover s with
  | engine =>
    obtain ⟨t, ht⟩ := engineStep_next (popTurn s)
    rw [step_engine hm, ht] at h
    cases h
  | host =>
    refine ⟨rfl, ?_⟩
    cases hh : s.host with
    | nil => rw [step_host_nil hm hh] at h; cases h
    | cons m rest => exact ⟨m, rest, rfl, (step_host hm hh).symm.trans h⟩

/-- No move of the host changes the moves to come. -/
theorem hostMove_host {m : HostMove} {s t : State} (h : hostMove m s = .next t) : t.host = s.host := by
  cases m with
  | write off v =>
    obtain ⟨-, ⟨-, rfl⟩ | ⟨-, -, rfl⟩ | ⟨-, -, rfl⟩ | ⟨-, -, hc⟩ | ⟨-, -, rfl⟩ | ⟨-, -, rfl⟩⟩ := busWrite_cases h
    · rfl
    · rfl
    · rfl
    · obtain ⟨e, rfl⟩ | ⟨-, i, -, rfl⟩ := cmdWrite_rejects_or_accepts hc
      · rfl
      · rfl
    · rfl
    · cases regAt s.params off <;> rfl
  | read off =>
    obtain ⟨-, ⟨-, rfl⟩ | ⟨-, -, -, rfl⟩ | ⟨-, -, rfl⟩⟩ := busRead_cases h
    · rfl
    · rfl
    · rfl
  | rst level =>
    obtain rfl := Host.Outcome.next.inj h
    rw [drivePin]
    split
    · split
      · rfl
      · rfl
    · rfl

/-- A step leaves the host's moves to come, or takes the first of them. -/
theorem step_host_suffix {s t : State} (h : step s = .next t) : t.host = s.host ∨ t.host = s.host.tail := by
  obtain ⟨-, -, rfl⟩ | ⟨-, -, i, -, rfl⟩ | ⟨-, -, rfl⟩ | ⟨-, m, rest, -, ht⟩ := step_cases h
  · exact .inl rfl
  · obtain ⟨-, -, -, -, -, -, -, -, -, hhost, -, -⟩ := effectOf_frame i (popTurn s)
    exact .inl hhost
  · exact .inl rfl
  · exact .inr (hostMove_host ht)

/-- A step keeps "all coming moves are accesses or the pin". -/
theorem hostOk_step {s t : State} (h : step s = .next t) (hok : hostOk s = true) : hostOk t = true := by
  rw [hostOk, List.all_eq_true] at hok ⊢
  obtain hs | hs := step_host_suffix h
  · exact fun m hm => hok m (hs ▸ hm)
  · exact fun m hm => hok m (List.mem_of_mem_tail (hs ▸ hm))

/-- When all coming moves are accesses or the pin, the step is not refused. -/
theorem step_next_of_hostOk {s : State} (hok : hostOk s = true) : ∃ t, step s = .next t := by
  cases h : step s with
  | next t => exact ⟨t, rfl⟩
  | fault f => cases f
  | refused r =>
    obtain ⟨-, m, rest, hh, hm⟩ := step_refused h
    rw [hostOk, hh, List.all_cons, Bool.and_eq_true] at hok
    obtain ⟨t, ht⟩ := hostMove_next (s := popHost (popTurn s)) hok.1
    rw [ht] at hm
    cases hm

/-- Settles O54: a refusal is the host's move's, and a move is refused exactly at an offset that is no access. -/
theorem stepStopsOnlyOnNonAccess : Obligations.StepStopsOnlyOnNonAccess := by
  intro s
  refine ⟨fun f => (nomatch f), fun r h => ?_, fun off rest hm hoff hh => ?_, fun hok => ?_⟩
  · obtain ⟨hm, m, rest, hh, hr⟩ := step_refused h
    obtain ⟨off, ho, rfl, hacc⟩ := hostMove_refused hr
    refine ⟨hm, off, rest, rfl, offsetOk_eq_false_iff.1 ho, ?_⟩
    obtain ⟨v, rfl⟩ | rfl := hacc
    · exact .inl ⟨v, hh⟩
    · exact .inr hh
  · have ho := offsetOk_eq_false_iff.2 hoff
    obtain ⟨v, hh⟩ | hh := hh
    · rw [step_host hm hh, hostMove, busWrite_notAnAccess ho]
    · rw [step_host hm hh, hostMove, busRead_notAnAccess ho]
  · obtain ⟨t, ht⟩ := step_next_of_hostOk hok
    exact ⟨t, ht, hostOk_step ht hok⟩

end Sys2Proof.Machine
end

/-! ## The encoding

The command word of `i` is the number `16 * IMM5 + OP` (spec/30_encoding.md R80, R83), and it is the only word that
decodes to `i`; every other word is BADCMD. -/

section
namespace Sys2Proof.Machine

/-- The 12 non-rotate opcodes and WROTL fill the numbers below 13 (R83, R84). -/
theorem opcode_lt (i : Instr) : (opcode i).toNat < 13 := by
  cases i <;> simp [opcode]

theorem opcode_eq_three_iff {i : Instr} : (opcode i).toNat = 3 ↔ ∃ n, i = .wrotl n := by
  cases i <;> simp [opcode]

/-- IMM5 as a number is 0 outside WROTL (R80). -/
theorem imm5_toNat_of_opcode_ne {i : Instr} (h : (opcode i).toNat ≠ 3) : (imm5 i).toNat = 0 := by
  rw [imm5_of_opcode_ne fun h3 => h (by rw [h3]; rfl)]
  rfl

/-- A word with the fields of a command, as a number (R80). -/
theorem toNat_of_fields {w : Word} {i : Instr} (hop : opField w = opcode i) (himm : imm5Field w = imm5 i)
    (hrsv : rsvField w = 0) : w.toNat = 16 * (imm5 i).toNat + (opcode i).toNat := by
  have h0 : (rsvField w).toNat = 0 := by rw [hrsv]; rfl
  rw [rsvField_toNat] at h0
  rw [← hop, ← himm, opField_toNat, imm5Field_toNat]
  omega

theorem encode_toNat (i : Instr) : (encode i).toNat = 16 * (imm5 i).toNat + (opcode i).toNat := by
  obtain ⟨hop, himm, hrsv⟩ := encodeFields i
  exact toNat_of_fields hop himm hrsv

theorem eq_encode_iff {w : Word} {i : Instr} :
    w = encode i ↔ w.toNat = 16 * (imm5 i).toNat + (opcode i).toNat := by
  rw [← BitVec.toNat_inj, encode_toNat]

/-- A word that decodes to a command has the command's fields and RSV 0. -/
theorem fields_of_decode {w : Word} {i : Instr} (h : decode w = .command i) :
    opField w = opcode i ∧ imm5Field w = imm5 i ∧ rsvField w = 0 := by
  rw [decode] at h
  split at h
  · cases h
  · rename_i j hmap
    split at h
    · cases h
    · rename_i hrsv
      split at h
      · cases h
      · rename_i himm
        obtain rfl := Verdict.command.inj h
        obtain ⟨hop, hrot⟩ := (opcodeMap_eq_some _ _ _).1 hmap
        refine ⟨hop.symm, ?_, not_not.1 hrsv⟩
        by_cases h3 : opField w = 3
        · exact (hrot h3).symm
        · rw [imm5_of_opcode_ne (hop ▸ h3)]
          exact not_not.1 fun h0 => himm ⟨h3, h0⟩

/-- The word of a command is the only one that decodes to it. -/
theorem decode_eq_command_iff {w : Word} {i : Instr} : decode w = .command i ↔ w = encode i := by
  constructor
  · intro h
    obtain ⟨hop, himm, hrsv⟩ := fields_of_decode h
    exact eq_encode_iff.2 (toNat_of_fields hop himm hrsv)
  · rintro rfl
    exact decode_encode i

theorem decode_eq_command_iff_toNat {w : Word} {i : Instr} :
    decode w = .command i ↔ w.toNat = 16 * (imm5 i).toNat + (opcode i).toNat :=
  decode_eq_command_iff.trans eq_encode_iff

theorem decodeTableWord_encode (i : Instr) : decodeTableWord 32 (encode i).toNat = some i := by
  have hlt := (encode i).isLt
  simp only [decodeTableWord, Nat.mod_eq_of_lt hlt, if_pos hlt, BitVec.ofNat_toNat, BitVec.setWidth_eq, decode_encode]

/-- Settles O1: `decode_encode`, and the fields of a word that decodes to a command are those of its `encode`. -/
theorem decodeEncodeRoundTrip : Obligations.DecodeEncodeRoundTrip :=
  fun i => ⟨decode_encode i, decodeTableWord_encode i, fun _ => decode_eq_command_iff.1⟩

/-- "Every 32-bit word decodes to exactly one of two results" (R81). -/
theorem decode_badcmd_iff {w : Word} : (∃ why, decode w = .badcmd why) ↔ ¬ ∃ i, decode w = .command i := by
  cases decode w with
  | command i => simp
  | badcmd why => simp

/-- The words that R81, R84 and R85 do not reject are the commands. -/
theorem exists_decode_command_iff {w : Word} : (∃ i, decode w = .command i) ↔ ¬ specBadCmd w := by
  simp only [specBadCmd]
  constructor
  · rintro ⟨i, hi⟩
    rw [decode_eq_command_iff_toNat] at hi
    have hop := opcode_lt i
    have himm := (imm5 i).isLt
    have hrot := imm5_toNat_of_opcode_ne (i := i)
    omega
  · intro hw
    have hop := opField_toNat w
    have himm := imm5Field_toNat w
    cases hmap : opcodeMap (opField w) (imm5Field w) with
    | none =>
      rw [opcodeMap_eq_none] at hmap
      omega
    | some i =>
      obtain ⟨hi, hrot⟩ := (opcodeMap_eq_some _ _ _).1 hmap
      refine ⟨i, decode_eq_command_iff_toNat.2 ?_⟩
      rw [← hi] at hop hrot
      by_cases h3 : (opcode i).toNat = 3
      · rw [← hrot (BitVec.eq_of_toNat_eq h3)] at himm
        omega
      · have h0 := imm5_toNat_of_opcode_ne h3
        omega

/-- The idle machine rejects a word that is no command with code 1 (R201, R203). -/
theorem cmdWrite_badcmd {s : State} {w : Word} {why : BadCmd} (hp : s.PEND = none) (hd : decode w = .badcmd why) :
    cmdWrite w s = .next (reject .badcmd s) := by
  simp [cmdWrite, busy_eq_false_iff.2 hp, hd]

/-- Settles O2: the words that decode to no command are those `specBadCmd` names, and `cmdWrite_badcmd` says what their
write does. -/
theorem decodeVerdictAndBadCmdRejection : Obligations.DecodeVerdictAndBadCmdRejection := by
  intro w
  have hbad : specBadCmd w ↔ ∃ why, decode w = .badcmd why := by
    rw [decode_badcmd_iff, exists_decode_command_iff, not_not]
  refine ⟨hbad, fun hw => ?_, rfl, fun s hr hp hw => ?_⟩
  · obtain ⟨i, hi⟩ := exists_decode_command_iff.2 hw
    obtain ⟨hop, himm, -⟩ := fields_of_decode hi
    exact ⟨i, hi, hop ▸ opField_toNat w, himm ▸ imm5Field_toNat w⟩
  · obtain ⟨why, hd⟩ := hbad.1 hw
    rw [busWrite_cmd hr, cmdWrite_badcmd hp hd]
    rfl

/-- The commands other than WROTL are the words below 13 but 3 (R86). -/
theorem decode_nonRotate_iff {w : Word} :
    (∃ i, decode w = .command i ∧ ∀ n, i ≠ .wrotl n) ↔ w.toNat < 13 ∧ w.toNat ≠ 3 := by
  constructor
  · rintro ⟨i, hi, hn⟩
    rw [decode_eq_command_iff_toNat] at hi
    have h3 : (opcode i).toNat ≠ 3 := fun h3 => by
      obtain ⟨n, rfl⟩ := opcode_eq_three_iff.1 h3
      exact hn n rfl
    have h0 := imm5_toNat_of_opcode_ne h3
    have hop := opcode_lt i
    omega
  · rintro ⟨hlt, hne⟩
    have hw : ¬ specBadCmd w := by
      rw [specBadCmd]
      omega
    obtain ⟨i, hi⟩ := exists_decode_command_iff.2 hw
    refine ⟨i, hi, ?_⟩
    rintro n rfl
    rw [decode_eq_command_iff_toNat] at hi
    have h3 : (opcode (.wrotl n)).toNat = 3 := rfl
    omega

/-- The word of WROTL is `3 + 16 * n` (R86, R89). -/
theorem decode_wrotl_iff {w : Word} {n : BitVec 5} :
    decode w = .command (.wrotl n) ↔ w.toNat = 3 + 16 * n.toNat := by
  rw [decode_eq_command_iff_toNat, Nat.add_comm]
  rfl

/-- Settles O3: the non-rotate words are those below 13 but 3, the WROTL words those of the 32 amounts. -/
theorem legalCommandWords : Obligations.LegalCommandWords := by
  intro w
  refine ⟨?_, ⟨?_, ?_⟩, decode_badcmd_iff⟩
  · rw [decode_nonRotate_iff]
    simp only [List.mem_cons, List.not_mem_nil, or_false]
    omega
  · rintro ⟨n, hn⟩
    exact ⟨n.toNat, n.isLt, decode_wrotl_iff.1 hn⟩
  · rintro ⟨n, hlt, hw⟩
    exact ⟨BitVec.ofNatLT n hlt, decode_wrotl_iff.2 hw⟩

/-- The word `3 + 16 * n` fits 32 bits and decodes to WROTL with the amount `n`. -/
theorem decode_ofNat_wrotl (n : BitVec 5) : decode (BitVec.ofNat 32 (3 + 16 * n.toNat)) = .command (.wrotl n) := by
  have hn := n.isLt
  rw [decode_wrotl_iff, BitVec.toNat_ofNat]
  omega

/-- Settles O4: each row by the number of its command word. -/
theorem commandWordTable : Obligations.CommandWordTable := by
  refine ⟨?_, ?_, ?_, decode_ofNat_wrotl, decode_ofNat_wrotl 7, decode_ofNat_wrotl 9, decode_ofNat_wrotl 13,
    decode_ofNat_wrotl 18, ?_, ?_, ?_, ?_, ?_, ?_, ?_, ?_, ?_⟩
  all_goals exact decode_eq_command_iff_toNat.2 rfl

end Sys2Proof.Machine
end

/-! ## The word commands

WADD, WXOR and WROTL at their completion (spec/40_word_ops.md R100 to R105), and the registers they read, which no step
changes while a command is in flight (R106, spec/70_reset_and_hazards.md R240). -/

section
namespace Sys2Proof.Machine

theorem add32_toNat (a b : Word) : (add32 a b).toNat = (a.toNat + b.toNat) % 2 ^ 32 := BitVec.toNat_add a b

theorem getLsbD_xor32 (a b : Word) (j : Nat) : (xor32 a b).getLsbD j = (a.getLsbD j ^^ b.getLsbD j) :=
  BitVec.getLsbD_xor

/-- Bit `j` of a word rotated left by `n` is bit `(j - n) mod 32` of the word, for `n = 0` too (R104). -/
theorem getLsbD_rotl32 (a : Word) {n j : Nat} (hn : n < 32) (hj : j < 32) :
    (rotl32 a n).getLsbD j = a.getLsbD ((j + 32 - n) % 32) := by
  rw [rotl32_eq_rotateLeft a n hn, BitVec.getLsbD_rotateLeft, Nat.mod_eq_of_lt hn, Bool.cond_decide]
  split
  · have hwrap : (j + 32 - n) % 32 = 32 - n + j := by omega
    rw [hwrap]
  · have hshift : (j + 32 - n) % 32 = j - n := by omega
    rw [hshift, decide_eq_true hj, Bool.true_and]

/-- Settles O12: the completion writes `add32 A B` to R. -/
theorem waddCompletes : Obligations.WaddCompletes := fun s hp =>
  ⟨add32 s.A s.B, exec_completes hp, add32_toNat s.A s.B⟩

/-- Settles O13: the completion writes `xor32 A B` to R. -/
theorem wxorCompletes : Obligations.WxorCompletes := fun s hp =>
  ⟨xor32 s.A s.B, exec_completes hp, fun j _ => getLsbD_xor32 s.A s.B j⟩

/-- Settles O14: the completion writes `rotl32 A n` to R, and five bits hold no amount above 31 (R82). -/
theorem wrotlCompletes : Obligations.WrotlCompletes := fun s n hp =>
  ⟨rotl32 s.A n.toNat, exec_completes hp, fun _ hj => getLsbD_rotl32 s.A n.isLt hj⟩

/-- What the host cannot disturb while a command is in flight: its operands, and DONE where it is 0. -/
def Undisturbed (s t : State) : Prop :=
  operandsOf t = operandsOf s ∧ (s.DONE = false → t.DONE = false)

theorem undisturbed_writeStatus (v : Word) (s : State) : Undisturbed s (writeStatus v s) :=
  ⟨rfl, fun hd => by rw [writeStatus_DONE, hd, Bool.false_and]⟩

/-- While a command is in flight a bus write reaches STATUS and IE alone (R240). -/
theorem busWrite_undisturbed {off : Nat} {v : Word} {s t : State} (h : busWrite off v s = .next t)
    (hp : s.PEND ≠ none) : Undisturbed s t := by
  obtain ⟨-, ⟨-, rfl⟩ | ⟨-, -, rfl⟩ | ⟨-, -, rfl⟩ | ⟨-, -, hc⟩ | ⟨-, -, rfl⟩ | ⟨-, hb, -⟩⟩ := busWrite_cases h
  · exact ⟨rfl, id⟩
  · exact undisturbed_writeStatus v s
  · exact ⟨rfl, id⟩
  · obtain ⟨e, rfl⟩ | ⟨hidle, -⟩ := cmdWrite_rejects_or_accepts hc
    · exact ⟨rfl, fun _ => rfl⟩
    · exact absurd hidle hp
  · exact ⟨rfl, id⟩
  · exact absurd (busy_eq_false_iff.1 hb) hp

/-- A bus read changes no operand and not DONE (R67). -/
theorem busRead_undisturbed {off : Nat} {s t : State} (h : busRead off s = .next t) : Undisturbed s t := by
  obtain ⟨-, ⟨-, rfl⟩ | ⟨-, -, -, rfl⟩ | ⟨-, -, rfl⟩⟩ := busRead_cases h
  · exact ⟨rfl, id⟩
  · exact ⟨rfl, id⟩
  · exact ⟨rfl, id⟩

/-- A move of the pin that leaves a command in flight changes nothing: driven low, it abandons the command (R231). -/
theorem drivePin_eq_self {level : Bool} {s : State} (hr : s.rstN = true) (hp : (drivePin level s).PEND ≠ none) :
    drivePin level s = s := by
  cases level with
  | false => exact absurd rfl hp
  | true => simp [drivePin, hr]

/-- A move of the host out of reset that leaves the command in flight. -/
theorem hostMove_undisturbed {m : HostMove} {s t : State} (h : hostMove m s = .next t) (hr : s.rstN = true)
    (hs : s.PEND ≠ none) (ht : t.PEND ≠ none) : Undisturbed s t := by
  cases m with
  | write off v => exact busWrite_undisturbed h hs
  | read off => exact busRead_undisturbed h
  | rst level =>
    obtain rfl := Host.Outcome.next.inj h
    rw [drivePin_eq_self hr ht]
    exact ⟨rfl, id⟩

/-- A step out of reset that leaves the command in flight is an idle turn or a move of the host, for the engine's own
would complete the command. -/
theorem step_undisturbed {s t : State} (h : step s = .next t) (hr : s.rstN = true) (hs : s.PEND ≠ none)
    (ht : t.PEND ≠ none) : Undisturbed s t := by
  obtain ⟨-, -, rfl⟩ | ⟨-, -, i, -, rfl⟩ | ⟨-, -, rfl⟩ | ⟨-, m, rest, -, hm⟩ := step_cases h
  · exact ⟨rfl, id⟩
  · exact absurd rfl ht
  · exact ⟨rfl, id⟩
  · exact hostMove_undisturbed (s := popHost (popTurn s)) hm hr hs ht

/-- In a good state DONE is 0 while a command is in flight (R30). -/
theorem done_eq_false_of_pendOk {s : State} {i : Instr} (h : pendOk s = true) (hp : s.PEND = some i) :
    s.DONE = false := by
  simp only [pendOk, hp, Bool.and_eq_true, Bool.not_eq_true'] at h
  obtain ⟨⟨-, hd⟩, -⟩ := h
  exact hd

/-- Settles O11: by `step_undisturbed`, DONE being 0 before the step in a good state. -/
theorem operandsStableWhileBusy : Obligations.OperandsStableWhileBusy := by
  intro s t i h hs ht hr
  obtain ⟨hops, hdone⟩ := step_undisturbed h hr (by simp [hs]) (by simp [ht])
  exact ⟨hops, fun ⟨_, hpend⟩ => hdone (done_eq_false_of_pendOk hpend hs)⟩

end Sys2Proof.Machine
end

/-! ## The quarter-round and the rounds

QR, COLRND, ROWRND and DBLRND at their completion (spec/41_rounds.md R120 to R130), the rounds as the quarter-rounds of
their four groups, in place and in any order (R125), and the round engines at their ports (R121, R128, R129,
spec/42_hash.md R142). -/

section
namespace Sys2Proof.Machine

/-- The quarter-round by its four equations (R120), over the library's rotation. -/
theorem qr_eq_iff {y0 y1 y2 y3 z0 z1 z2 z3 : Word} :
    (z0, z1, z2, z3) = qr y0 y1 y2 y3 ↔
      z1 = y1 ^^^ (y0 + y3).rotateLeft 7 ∧ z2 = y2 ^^^ (z1 + y0).rotateLeft 9 ∧
      z3 = y3 ^^^ (z2 + z1).rotateLeft 13 ∧ z0 = y0 ^^^ (z3 + z2).rotateLeft 18 := by
  simp only [qr, xor32, add32, rotl32_eq_rotateLeft, Nat.reduceLT, Prod.mk.injEq]
  constructor <;>
  · rintro ⟨rfl, rfl, rfl, rfl⟩
    exact ⟨rfl, rfl, rfl, rfl⟩

/-- Settles O15: the completion writes the quarter-round of the four Q words. -/
theorem qrCompletes : Obligations.QrCompletes := fun _ hp =>
  ⟨_, _, _, _, exec_completes hp, qr_eq_iff.1 rfl⟩

/-! ### A round as the quarter-rounds of its groups -/

/-- A group of four indices, in the order the quarter-round takes its words (R123, R124). -/
abbrev IndexGroup := Fin 16 × Fin 16 × Fin 16 × Fin 16

/-- The words of a state at the four indices of a group. -/
def groupWords (x : Block) (g : IndexGroup) : Word × Word × Word × Word :=
  (x[g.1], x[g.2.1], x[g.2.2.1], x[g.2.2.2])

/-- The group's words in `z` are the quarter-round of its words in `y`. -/
def GroupRounded (y z : Block) (g : IndexGroup) : Prop :=
  let (y0, y1, y2, y3) := groupWords y g
  groupWords z g = qr y0 y1 y2 y3

theorem groupRounded_iff_quarterEq {y z : Block} {i0 i1 i2 i3 : Fin 16} :
    GroupRounded y z (i0, i1, i2, i3) ↔ quarterEq y z i0 i1 i2 i3 := qr_eq_iff

theorem groupWords_congr {x y : Block} {g : IndexGroup}
    (h : ∀ k ∈ groupIndices g, x[k] = y[k]) : groupWords x g = groupWords y g := by
  rw [groupWords, h g.1 (by simp [groupIndices]), h g.2.1 (by simp [groupIndices]),
    h g.2.2.1 (by simp [groupIndices]), h g.2.2.2 (by simp [groupIndices]), groupWords]

/-- Two states with the same words in a group have the same word at each of its indices. -/
theorem getElem_eq_of_groupWords {x y : Block} {g : IndexGroup} {k : Fin 16}
    (h : groupWords x g = groupWords y g) (hk : k ∈ groupIndices g) : x[k] = y[k] := by
  simp only [groupWords, Prod.mk.injEq] at h
  obtain ⟨h0, h1, h2, h3⟩ := h
  simp only [groupIndices, List.mem_cons, List.not_mem_nil, or_false] at hk
  obtain rfl | rfl | rfl | rfl := hk
  · exact h0
  · exact h1
  · exact h2
  · exact h3

/-- The four groups of `rowround` (R123). -/
theorem rowround_groupRounded (y : Block) : ∀ g ∈ rowGroups, GroupRounded y (rowround y) g := by
  simp only [rowGroups, List.forall_mem_cons]
  exact ⟨rfl, rfl, rfl, rfl, List.forall_mem_nil _⟩

/-- The four groups of `columnround` (R124). -/
theorem columnround_groupRounded (y : Block) : ∀ g ∈ columnGroups, GroupRounded y (columnround y) g := by
  simp only [columnGroups, List.forall_mem_cons]
  exact ⟨rfl, rfl, rfl, rfl, List.forall_mem_nil _⟩

/-- Settles O17: the completion writes `columnround S`, group by group. -/
theorem colrndCompletes : Obligations.ColrndCompletes := fun s hp => by
  have hgroups := columnround_groupRounded s.S
  simp only [columnGroups, List.forall_mem_cons, groupRounded_iff_quarterEq] at hgroups
  obtain ⟨h0, h1, h2, h3, -⟩ := hgroups
  exact ⟨columnround s.S, exec_completes hp, h0, h1, h2, h3⟩

/-- Settles O18: the completion writes `rowround S`, group by group. -/
theorem rowrndCompletes : Obligations.RowrndCompletes := fun s hp => by
  have hgroups := rowround_groupRounded s.S
  simp only [rowGroups, List.forall_mem_cons, groupRounded_iff_quarterEq] at hgroups
  obtain ⟨h0, h1, h2, h3, -⟩ := hgroups
  exact ⟨rowround s.S, exec_completes hp, h0, h1, h2, h3⟩

/-- Settles O20: the three completions write `columnround S`, its `rowround`, and `doubleround S`. -/
theorem dblrndIsColrndThenRowrnd : Obligations.DblrndIsColrndThenRowrnd := fun _ =>
  ⟨_, _, exec_completes rfl, exec_completes rfl, exec_completes rfl, rfl⟩

/-! ### Groups updated in place -/

theorem groupRounded_quarterInPlace (y : Block) {g : IndexGroup}
    (h : (groupIndices g).Nodup) : GroupRounded y (quarterInPlace y g) g :=
  quarterInPlace_inside y g.1 g.2.1 g.2.2.1 g.2.2.2 h

theorem foldl_quarterInPlace_outside {l : List (IndexGroup)} (y : Block) {k : Fin 16}
    (h : k ∉ l.flatMap groupIndices) : (l.foldl quarterInPlace y)[k] = y[k] := by
  induction l generalizing y with
  | nil => rfl
  | cons g l ih =>
    rw [List.flatMap_cons, List.mem_append, not_or] at h
    obtain ⟨hg, hl⟩ := h
    rw [List.foldl_cons, ih _ hl, quarterInPlace_outside y g k hg]

/-- With no index in two groups, each group is rounded from the first state: the groups before it leave its words, and
the groups after it leave its result. -/
theorem foldl_quarterInPlace_groupRounded {l : List (IndexGroup)} (y : Block)
    (h : (l.flatMap groupIndices).Nodup) : ∀ g ∈ l, GroupRounded y (l.foldl quarterInPlace y) g := by
  induction l generalizing y with
  | nil => exact List.forall_mem_nil _
  | cons g l ih =>
    rw [List.flatMap_cons, List.nodup_append'] at h
    obtain ⟨hg, hl, hdisj⟩ := h
    rw [List.forall_mem_cons, List.foldl_cons]
    constructor
    · have hkept : groupWords (l.foldl quarterInPlace (quarterInPlace y g)) g = groupWords (quarterInPlace y g) g :=
        groupWords_congr fun k hk => foldl_quarterInPlace_outside _ (hdisj hk)
      exact hkept.trans (groupRounded_quarterInPlace y hg)
    · intro g' hg'
      have hread : groupWords (quarterInPlace y g) g' = groupWords y g' :=
        groupWords_congr fun k hk =>
          quarterInPlace_outside y g k fun hkg => hdisj hkg (List.mem_flatMap_of_mem hg' hk)
      have hrounded := ih (quarterInPlace y g) hl g' hg'
      rwa [GroupRounded, hread] at hrounded

/-- Groups that hold every index, none twice, updated in place in any order give the one state in which each of them is
rounded (R125). -/
theorem foldl_quarterInPlace_eq {l gs : List (IndexGroup)} {y z : Block} (hp : l.Perm gs)
    (hnodup : (gs.flatMap groupIndices).Nodup) (hall : ∀ k, k ∈ gs.flatMap groupIndices)
    (hz : ∀ g ∈ gs, GroupRounded y z g) : l.foldl quarterInPlace y = z := by
  have hindices : (l.flatMap groupIndices).Perm (gs.flatMap groupIndices) := hp.flatMap_right groupIndices
  have hl := foldl_quarterInPlace_groupRounded y (hindices.nodup_iff.2 hnodup)
  apply Vector.ext
  intro i hi
  obtain ⟨g, hg, hk⟩ := List.mem_flatMap.1 (hall ⟨i, hi⟩)
  exact getElem_eq_of_groupWords ((hl g (hp.mem_iff.2 hg)).trans (hz g hg).symm) hk

/-- Settles O19: the groups of either round hold the sixteen indices once each. -/
theorem inPlaceRoundsAgree : Obligations.InPlaceRoundsAgree := fun y _ =>
  ⟨fun hp => foldl_quarterInPlace_eq hp (by decide) (by decide) (rowround_groupRounded y),
   fun hp => foldl_quarterInPlace_eq hp (by decide) (by decide) (columnround_groupRounded y)⟩

/-! ### The round engines at their ports -/

/-- Byte `k` of a run of words is lane `k mod 4` of word `k div 4` (R62). -/
theorem getElem?_bytesOf (ws : List Word) (k : Nat) : (bytesOf ws)[k]? = ws[k / 4]?.map (lane · (k % 4)) := by
  induction ws generalizing k with
  | nil => rfl
  | cons w ws ih =>
    rw [bytesOf, List.flatMap_cons, ← bytesOf]
    match k with
    | 0 | 1 | 2 | 3 => rfl
    | k + 4 =>
      rw [List.getElem?_append_right (by simp [le32inv]), Nat.add_div_right k (by decide), Nat.add_mod_right]
      exact ih k

/-- Byte `k` of a value is lane `k mod 4` of its 32-bit piece `k div 4`. -/
theorem lane_extractLsb' {w : Nat} (v : BitVec w) (k : Nat) :
    lane (v.extractLsb' (32 * (k / 4)) 32) (k % 4) = v.extractLsb' (8 * k) 8 := by
  apply BitVec.eq_of_getLsbD_eq
  intro j hj
  have hin : 8 * (k % 4) + j < 32 := by omega
  have hbit : 32 * (k / 4) + (8 * (k % 4) + j) = 8 * k + j := by omega
  simp only [lane, BitVec.getLsbD_extractLsb', hj, hin, hbit, decide_true, Bool.true_and]

/-- Byte `k` of a packed state (R128). -/
theorem getElem?_bytesOf_packState (x : Block) {k : Nat} (hk : k < 64) :
    (bytesOf x.toList)[k]? = some ((packState x).extractLsb' (8 * k) 8) := by
  have hw : k / 4 < 16 := by omega
  rw [getElem?_bytesOf, ← lane_extractLsb' (packState x) k, ← busWord, busWord_packState x (k / 4) hw]
  simp [hw]

/-- The engine on a packed state (R129). -/
theorem salsa20DoubleRoundEngine_packState (x : Block) :
    salsa20DoubleRoundEngine (packState x) = packState (doubleround x) := by
  rw [salsa20DoubleRoundEngine, unpackState_packState]

/-- Ten iterations of the engine on a packed state (R142). -/
theorem salsa20HashPermutation_packState (x : Block) :
    salsa20HashPermutation (packState x) = packState (perm10 x) := by
  have hstep : Function.Semiconj packState doubleround salsa20DoubleRoundEngine :=
    fun x => (salsa20DoubleRoundEngine_packState x).symm
  exact (hstep.iterate_right 10 x).symm

/-- Settles O59: the unit is `qr` at its ports, the words and bytes of a packed state are where they were put, and the
engines by `unpackState_packState`. -/
theorem roundEnginesAtTheirPorts : Obligations.RoundEnginesAtTheirPorts :=
  ⟨fun _ _ _ _ => rfl, fun x =>
    ⟨unpackState_packState x, fun i => busWord_packState x i i.isLt, fun _ hk => getElem?_bytesOf_packState x hk,
     salsa20DoubleRoundEngine_packState x, salsa20HashPermutation_packState x⟩⟩

end Sys2Proof.Machine
end

/-! ## The codec, the permutation and the hash

The little-endian codec (spec/42_hash.md R140), the quarter-round undone from its outputs and with it PERM10 (R144),
PERM10 as ten double-rounds (R142), and HASH at its completion (R145, R146). -/

section
namespace Sys2Proof.Machine

/-! ### The codec -/

theorem le32inv_le32 (b0 b1 b2 b3 : Byte) : le32inv (le32 b0 b1 b2 b3) = [b0, b1, b2, b3] := by
  obtain ⟨h0, h1, h2, h3⟩ := lane_le32 b0 b1 b2 b3
  rw [le32inv, h0, h1, h2, h3]

/-- The lanes of a word are its four digits to the base 256; the top one needs no remainder. -/
theorem lanes_toNat (w : Word) :
    (lane w 0).toNat = w.toNat % 256 ∧ (lane w 1).toNat = w.toNat / 256 % 256 ∧
      (lane w 2).toNat = w.toNat / 65536 % 256 ∧ (lane w 3).toNat = w.toNat / 16777216 := by
  have hw := w.isLt
  simp only [lane_toNat]
  omega

/-- Settles O48: the bytes of a word are its lanes, and `le32_lanes` and `le32inv_le32` are the two directions. -/
theorem littleEndianCodec : Obligations.LittleEndianCodec :=
  ⟨fun b0 b1 b2 b3 => ⟨le32_toNat b0 b1 b2 b3, le32inv_le32 b0 b1 b2 b3⟩,
   fun w => ⟨lane w 0, lane w 1, lane w 2, lane w 3, rfl, le32_lanes w, lanes_toNat w⟩⟩

/-! ### The quarter-round and the rounds undone -/

/-- Settles O16: each equation of the quarter-round (R120) is solved for its own input word, and the other words in it
are outputs or inputs solved before. -/
theorem quarterRoundIsUndone : Obligations.QuarterRoundIsUndone := by
  intro y0 y1 y2 y3 z0 z1 z2 z3
  have hsolve (y z a : Word) : z = y ^^^ a ↔ y = z ^^^ a := eq_comm.trans (xor_eq_iff_left_eq y a z)
  rw [eq_comm, qr_eq_iff, hsolve y1, hsolve y2, hsolve y3, hsolve y0]
  constructor
  · rintro ⟨h1, h2, h3, h0⟩
    exact ⟨h0, h3, h2, h1⟩
  · rintro ⟨h0, h3, h2, h1⟩
    exact ⟨h1, h2, h3, h0⟩

/-- The outputs give the inputs, in the order y0, y3, y2, y1 (R144). -/
theorem qr_inj {y0 y1 y2 y3 y0' y1' y2' y3' : Word} (h : qr y0 y1 y2 y3 = qr y0' y1' y2' y3') :
    (y0, y1, y2, y3) = (y0', y1', y2', y3') := by
  obtain ⟨h0, h3, h2, h1⟩ := (quarterRoundIsUndone y0 y1 y2 y3 _ _ _ _).1 rfl
  obtain ⟨h0', h3', h2', h1'⟩ := (quarterRoundIsUndone y0' y1' y2' y3' _ _ _ _).1 h.symm
  obtain rfl := h0.trans h0'.symm
  obtain rfl := h3.trans h3'.symm
  obtain rfl := h2.trans h2'.symm
  obtain rfl := h1.trans h1'.symm
  rfl

/-- A round whose groups hold every index is one to one: each group's words are given back by its quarter-round. -/
theorem injective_of_groupRounded {f : Block → Block} {gs : List IndexGroup}
    (hall : ∀ k, k ∈ gs.flatMap groupIndices) (hf : ∀ y, ∀ g ∈ gs, GroupRounded y (f y) g) :
    Function.Injective f := by
  intro x y hxy
  apply Vector.ext
  intro i hi
  obtain ⟨g, hg, hk⟩ := List.mem_flatMap.1 (hall ⟨i, hi⟩)
  have hx : GroupRounded x (f y) g := hxy ▸ hf x g hg
  have hy : GroupRounded y (f y) g := hf y g hg
  have hwords : groupWords x g = groupWords y g := qr_inj (hx.symm.trans hy)
  exact getElem_eq_of_groupWords hwords hk

theorem rowround_injective : Function.Injective rowround :=
  injective_of_groupRounded (by decide) rowround_groupRounded

theorem columnround_injective : Function.Injective columnround :=
  injective_of_groupRounded (by decide) columnround_groupRounded

theorem doubleround_injective : Function.Injective doubleround :=
  rowround_injective.comp columnround_injective

theorem finite_block : Finite Block :=
  Finite.of_injective (fun x (i : Fin 16) => x[i]) fun _ _ h => Vector.ext fun i hi => congrFun h ⟨i, hi⟩

/-- Settles O22: PERM10 is one to one as the iterate of a one-to-one map, and the states are finitely many, so it is
onto. -/
theorem perm10IsBijective : Obligations.Perm10IsBijective :=
  have := finite_block
  (doubleround_injective.iterate 10).bijective_of_finite

/-! ### PERM10 and HASH at their completion -/

theorem completeTimes_succ (i : Instr) (n : Nat) (s : State) :
    completeTimes i (n + 1) s = completeTimes i n (complete (effectOf i { s with PEND := some i })) := by
  rw [completeTimes, exec_completes rfl]

/-- One or more completions of DBLRND iterate `doubleround` on S and are one completion to everything else. -/
theorem completeTimes_dblrnd (n : Nat) (s : State) :
    completeTimes .dblrnd (n + 1) s = .next (complete { s with S := doubleround^[n + 1] s.S }) := by
  induction n generalizing s with
  | zero => exact completeTimes_succ .dblrnd 0 s
  | succ n ih =>
    rw [completeTimes_succ, ih]
    rfl

/-- Settles O21: PERM10 completes with `doubleround^[10] S`, and so do ten completions of DBLRND. -/
theorem perm10IsTenDblrnd : Obligations.Perm10IsTenDblrnd := fun s =>
  ⟨_, exec_completes rfl, completeTimes_dblrnd 9 s, rfl⟩

/-- The feed-forward addition is word by word (R145). -/
theorem getElem_addBlocks (p x : Block) (i : Fin 16) : (addBlocks p x)[i] = add32 p[i] x[i] := by
  fin_cases i <;> rfl

/-- The hash over numbers: each word of `x` added modulo 2^32 to the word of its permutation (R145). -/
theorem getElem_hashBlock_toNat (x : Block) (i : Fin 16) :
    (hashBlock x)[i].toNat = ((perm10 x)[i].toNat + x[i].toNat) % 2 ^ 32 := by
  rw [hashBlock, getElem_addBlocks, add32_toNat]

/-- Settles O23: PERM10 completes with `perm10 S` in S, and HASH with `hashBlock S` in OUT. -/
theorem hashCompletes : Obligations.HashCompletes := fun s =>
  ⟨_, _, exec_completes rfl, exec_completes rfl, rfl, getElem_hashBlock_toNat s.S⟩

end Sys2Proof.Machine
end

/-! ## The expansion and the checks at issue

The 64 bytes of the expansion input (spec/43_expansion_keystream.md R162, R163) as those of the words of R164, and what
follows: EXPAND at its completion (R166), the checks of EXPAND and KSGEN at issue (R165, R171, R172, R178), and the
counter read back from the input in either order (90_conflicts.md C1). -/

section
namespace Sys2Proof.Machine

/-! ### The input as bytes -/

/-- Bit `j` of a value is bit `j mod 8` of its byte `j div 8`. -/
theorem getLsbD_extractLsb'_byte {w : Nat} (v : BitVec w) (j : Nat) :
    (v.extractLsb' (8 * (j / 8)) 8).getLsbD (j % 8) = v.getLsbD j := by
  rw [BitVec.getLsbD_extractLsb', Nat.div_add_mod]
  simp [Nat.mod_lt]

theorem bytesOf_append (ws ws' : List Word) : bytesOf (ws ++ ws') = bytesOf ws ++ bytesOf ws' :=
  List.flatMap_append

theorem bytesOf_singleton (w : Word) : bytesOf [w] = le32inv w := List.append_nil _

/-- The bytes of a word with its bytes swapped (R16). -/
theorem le32inv_bswap32 (w : Word) : le32inv (bswap32 w) = (le32inv w).reverse :=
  le32inv_le32 (lane w 3) (lane w 2) (lane w 1) (lane w 0)

theorem le32inv_ctrLo (c : Counter) :
    le32inv (ctrLo c) = [c.extractLsb' 0 8, c.extractLsb' 8 8, c.extractLsb' 16 8, c.extractLsb' 24 8] := by
  rw [le32inv, ctrLo, lane_extractLsb' c 0, lane_extractLsb' c 1, lane_extractLsb' c 2, lane_extractLsb' c 3]

theorem le32inv_ctrHi (c : Counter) :
    le32inv (ctrHi c) = [c.extractLsb' 32 8, c.extractLsb' 40 8, c.extractLsb' 48 8, c.extractLsb' 56 8] := by
  rw [le32inv, ctrHi, lane_extractLsb' c 4, lane_extractLsb' c 5, lane_extractLsb' c 6, lane_extractLsb' c 7]

/-- The words `x[8]` and `x[9]` of R164 are the bytes of `enc64` (R163). -/
theorem bytesOf_ctrWords (order : Config.FieldOrder) (c : Counter) :
    bytesOf [(ctrWords order c).1, (ctrWords order c).2] = enc64 order c := by
  cases order <;>
    simp [ctrWords, enc64, bytesOf, le32inv_bswap32, le32inv_ctrLo, le32inv_ctrHi]

/-- The constant words of R161 are the bytes of R160. -/
theorem le32inv_constants (keysz : Bool) (k : Fin 4) : le32inv (constants keysz)[k] = constantBytes keysz k := by
  revert keysz k
  decide

theorem toList_nonce (nonce : Vector Word 2) : nonce.toList = [nonce[0], nonce[1]] := by
  obtain ⟨⟨l⟩, hl⟩ := nonce
  match l, hl with
  | [_, _], _ => rfl

/-- The words of the expansion input (R164), in the runs of R162. -/
theorem toList_xin (order : Config.FieldOrder) (key : Vector Word 8) (keysz : Bool) (nonce : Vector Word 2)
    (c : Counter) :
    (xin order key keysz nonce c).toList =
      [(constants keysz)[(0 : Fin 4)]] ++ [key[0], key[1], key[2], key[3]] ++ [(constants keysz)[(1 : Fin 4)]] ++
        (nonce.toList ++ [(ctrWords order c).1, (ctrWords order c).2]) ++ [(constants keysz)[(2 : Fin 4)]] ++
        (if keysz then [key[4], key[5], key[6], key[7]] else [key[0], key[1], key[2], key[3]]) ++
        [(constants keysz)[(3 : Fin 4)]] := by
  rw [toList_nonce]
  cases keysz <;> rfl

/-- The bytes of the expansion input are those of R162 with the field of R163. -/
theorem bytesOf_xin (order : Config.FieldOrder) (key : Vector Word 8) (keysz : Bool) (nonce : Vector Word 2)
    (c : Counter) :
    bytesOf (xin order key keysz nonce c).toList =
      expansionBytes (bytesOf [key[0], key[1], key[2], key[3]]) (bytesOf [key[4], key[5], key[6], key[7]]) keysz
        (nonce16 order nonce c) := by
  simp only [toList_xin, bytesOf_append, bytesOf_singleton, le32inv_constants, bytesOf_ctrWords]
  cases keysz <;> rfl

/-- Settles O24: the completion writes the input to S and its hash to OUT, and HASH hashes that S again. -/
theorem expandCompletes : Obligations.ExpandCompletes := fun s hp =>
  ⟨inputAt s s.CTR, _, exec_completes hp, bytesOf_xin .., getElem_hashBlock_toNat _, exec_completes rfl⟩

/-! ### The input and its counter -/

/-- A packed state is its bytes packed (R128, R141). -/
theorem valueOf_bytesOf (x : Block) : valueOf 512 (bytesOf x.toList) = packState x := by
  have hlen : 8 * (bytesOf x.toList).length ≤ 512 := by simp [bytesOf, le32inv]
  apply BitVec.eq_of_getLsbD_eq
  intro j hj
  rw [getLsbD_valueOf (by decide) _ hlen, List.getD_eq_getElem?_getD,
    getElem?_bytesOf_packState x (by omega : j / 8 < 64), Option.getD_some, getLsbD_extractLsb'_byte]

/-- A block is given by its bytes. -/
theorem bytesOf_toList_inj {x y : Block} : bytesOf x.toList = bytesOf y.toList ↔ x = y := by
  refine ⟨fun h => ?_, fun h => h ▸ rfl⟩
  rw [← unpackState_packState x, ← valueOf_bytesOf, h, valueOf_bytesOf, unpackState_packState]

/-- Two expansion inputs with the same key, key size and nonce are equal exactly when their counter fields are. -/
theorem xin_eq_iff {order order' : Config.FieldOrder} {key : Vector Word 8} {keysz : Bool} {nonce : Vector Word 2}
    {c c' : Counter} :
    xin order key keysz nonce c = xin order' key keysz nonce c' ↔ enc64 order c = enc64 order' c' := by
  rw [← bytesOf_toList_inj, bytesOf_xin, bytesOf_xin]
  simp only [expansionBytes, nonce16, List.append_left_inj, List.append_right_inj]

/-- The two orders of R163 are each other's reverse. -/
theorem enc64_be (c : Counter) : enc64 .be c = (enc64 .le c).reverse := rfl

theorem getElem?_enc64_le (c : Counter) {k : Nat} (hk : k < 8) :
    (enc64 .le c)[k]? = some (c.extractLsb' (8 * k) 8) := by
  interval_cases k <;> rfl

/-- A counter is given by its encoding, in either order. -/
theorem enc64_inj {order : Config.FieldOrder} {c c' : Counter} : enc64 order c = enc64 order c' ↔ c = c' := by
  have hle (h : enc64 .le c = enc64 .le c') : c = c' := by
    apply BitVec.eq_of_getLsbD_eq
    intro j hj
    have hbyte := congrArg (·[j / 8]?) h
    simp only [getElem?_enc64_le _ (show j / 8 < 8 by omega), Option.some.injEq] at hbyte
    rw [← getLsbD_extractLsb'_byte c, hbyte, getLsbD_extractLsb'_byte]
  refine ⟨fun h => ?_, fun h => h ▸ rfl⟩
  cases order with
  | le => exact hle h
  | be => exact hle (List.reverse_injective h)

/-- Settles O32: the inputs are equal exactly when the two encodings are, which are each other's reverse. -/
theorem counterOrdersAgreeOnPalindromes : Obligations.CounterOrdersAgreeOnPalindromes := by
  intro key keysz nonce c
  rw [xin_eq_iff, enc64_be, List.reverse_reverse]

/-! ### The checks at issue -/

theorem specBlocks_iff {l : Word} {nb : Nat} : specBlocks l nb ↔ nb = blockCount l := by
  simp only [specBlocks, blockCount]
  omega

/-- Settles O30: the two bounds of `specBlocks` fix the quotient, and a word is below 2^32. -/
theorem blockCountIsExact : Obligations.BlockCountIsExact := by
  refine ⟨fun _ _ => specBlocks_iff, fun l => ?_, rfl, rfl, rfl, rfl⟩
  have := l.isLt
  simp only [blockCount]
  omega

theorem expandError_of_gt {s : State} (h : s.CTR.toNat > ctrMaxVal s.params.ctrMax) : expandError s = some .ctr :=
  if_pos h

theorem expandError_of_le {s : State} (h : s.CTR.toNat ≤ ctrMaxVal s.params.ctrMax) : expandError s = none :=
  if_neg (Nat.not_lt.2 h)

/-- R171: the counter check comes first. -/
theorem ksgenError_ctr {s : State} (h : s.CTR.toNat + blockCount s.KSLEN > ctrMaxVal s.params.ctrMax) :
    ksgenError s = some .ctr :=
  if_pos h

/-- R172: the length check, the counter check having passed. -/
theorem ksgenError_len {s : State} (h : s.CTR.toNat + blockCount s.KSLEN ≤ ctrMaxVal s.params.ctrMax)
    (hn : blockCount s.KSLEN > ksBlocks s.params) : ksgenError s = some .len := by
  rw [ksgenError, if_neg (Nat.not_lt.2 h), if_pos hn]

theorem ksgenError_eq_none_iff {s : State} :
    ksgenError s = none ↔
      s.CTR.toNat + blockCount s.KSLEN ≤ ctrMaxVal s.params.ctrMax ∧ blockCount s.KSLEN ≤ ksBlocks s.params := by
  refine ⟨fun h => ?_, fun ⟨hc, hn⟩ => by rw [ksgenError, if_neg (Nat.not_lt.2 hc), if_neg (Nat.not_lt.2 hn)]⟩
  have hc : s.CTR.toNat + blockCount s.KSLEN ≤ ctrMaxVal s.params.ctrMax :=
    Nat.not_lt.1 fun hgt => by simp [ksgenError_ctr hgt] at h
  exact ⟨hc, Nat.not_lt.1 fun hgt => by simp [ksgenError_len hc hgt] at h⟩

theorem ctr_le_full64 (c : Counter) : c.toNat ≤ ctrMaxVal .full64 := Nat.le_pred_of_lt c.isLt

/-- The 53-bit ceiling is passed as soon as a bit of CTR_HI from 21 on is set (R165). -/
theorem ctr_gt_safe53 {c : Counter} (h : (ctrHi c).toNat / 2 ^ 21 ≠ 0) : c.toNat > ctrMaxVal .safe53 := by
  rw [ctrHi_toNat] at h
  simp only [ctrMaxVal]
  omega

/-- Settles O25: an idle issue is rejected or accepted as the command's own check says. -/
theorem expandKsgenIssueChecks : Obligations.ExpandKsgenIssueChecks := by
  intro s nb hp hnb
  obtain rfl := specBlocks_iff.1 hnb
  refine ⟨rfl, rfl, fun h => exec_rejected hp (expandError_of_gt h), fun h => exec_accepted hp (expandError_of_le h),
    fun hm => exec_accepted hp (expandError_of_le ?_), fun hm h => exec_rejected hp (expandError_of_gt ?_),
    fun h => exec_rejected hp (ksgenError_ctr h), fun h hn => exec_rejected hp (ksgenError_len h hn),
    fun h hn => exec_accepted hp (ksgenError_eq_none_iff.2 ⟨h, hn⟩)⟩
  · rw [hm]
    exact ctr_le_full64 s.CTR
  · rw [hm]
    exact ctr_gt_safe53 h

end Sys2Proof.Machine
end

/-! ## The keystream

KSGEN at its completion (spec/43_expansion_keystream.md R173, R174): its blocks and its counter, the laws of the
keystream (R176, R177, R179), and the two engines at their ports, with the blocks in any order (R167, R175). -/

section
namespace Sys2Proof.Machine

/-- The counters of a KSGEN that passed its check are exact (R171, R173). -/
theorem toNat_ctrAdd_of_ksgenError {s : State} (h : ksgenError s = none) {b : Nat} (hb : b ≤ blockCount s.KSLEN) :
    (ctrAdd s.CTR b).toNat = s.CTR.toNat + b := by
  have hmax := ctrMaxVal_lt s.params.ctrMax
  obtain ⟨hctr, -⟩ := ksgenError_eq_none_iff.1 h
  exact toNat_ctrAdd (by omega)

/-- Settles O26: the completion writes `ksWrite`, whose words and other bytes are known, and the counter does not
wrap. -/
theorem ksgenCompletes : Obligations.KsgenCompletes := by
  intro s nb hp hwf hnb hctr hlen
  obtain rfl := specBlocks_iff.1 hnb
  refine ⟨ksWrite s (blockCount s.KSLEN), ctrAdd s.CTR (blockCount s.KSLEN), exec_completes hp,
    toNat_ctrAdd_of_ksgenError (ksgenError_eq_none_iff.2 ⟨hctr, hlen⟩) le_rfl, fun h0 => ?_,
    fun b hb i => word_ksWrite hwf _ b hb i, byte_ksWrite_outside hwf _⟩
  rw [h0]
  exact ⟨rfl, ctrAdd_zero _⟩

/-- Settles O27: both are the hash of the expansion input at `C + b`. -/
theorem ksgenBlockIsExpandAtCounter : Obligations.KsgenBlockIsExpandAtCounter := by
  intro s nb b hwf hnb hb
  obtain rfl := specBlocks_iff.1 hnb
  exact ⟨_, _, exec_completes rfl, exec_completes rfl,
    word_ksWrite (s := { s with PEND := some .ksgen }) hwf _ b hb⟩

/-! ### The laws of the keystream -/

/-- The expansion input depends on the parameters, the key, the key size and the nonce alone, beside the counter
(R168). -/
theorem inputAt_congr {s s' : State} (hparams : s'.params = s.params) (hkey : s'.KEY = s.KEY)
    (hkeysz : s'.KEYSZ = s.KEYSZ) (hnonce : s'.NONCE = s.NONCE) : inputAt s' = inputAt s := by
  funext c
  rw [inputAt, inputAt, hparams, hkey, hkeysz, hnonce]

/-- Settles O28: both blocks are the hash of the expansion input at `C + k + j`. -/
theorem keystreamIsBlockAddressable : Obligations.KeystreamIsBlockAddressable := by
  intro s1 s2 k m n1 n2 hp1 hp2 hwf1 hwf2 hparams hkey hkeysz hnonce hn1 hn2 _ _ hctr hk hm
  obtain rfl := specBlocks_iff.1 hn1
  obtain rfl := specBlocks_iff.1 hn2
  refine ⟨_, _, exec_completes hp1, exec_completes hp2, fun j hj i hi => ?_⟩
  have hcounter : ctrAdd s2.CTR j = ctrAdd s1.CTR (k + j) := by
    rw [ctrAdd, ctrAdd, hctr, Nat.add_assoc]
  calc (ksWrite s2 (blockCount s2.KSLEN)).word (ksAddr (16 * j + i))
      = (hashBlock (inputAt s2 (ctrAdd s2.CTR j)))[i] := word_ksWrite hwf2 _ j (by omega) ⟨i, hi⟩
    _ = (hashBlock (inputAt s1 (ctrAdd s1.CTR (k + j))))[i] := by
      simp only [hcounter, inputAt_congr hparams hkey hkeysz hnonce]
    _ = (ksWrite s1 (blockCount s1.KSLEN)).word (ksAddr (16 * (k + j) + i)) :=
      (word_ksWrite hwf1 _ (k + j) (by omega) ⟨i, hi⟩).symm

/-- Byte `k` of KSBUF is lane `k mod 4` of its word `k div 4` (R62). -/
theorem byte_eq_lane_word (m : Memory) (k : Nat) :
    m.byte (0x400 + k) = lane (m.word (ksAddr (k / 4))) (k % 4) := by
  rw [lane_word _ _ (Nat.mod_lt _ (by decide)), ksAddr, Nat.add_assoc, Nat.div_add_mod]

/-- Byte `k` of block `b` is a byte of the hash, whatever stood in KSBUF. -/
theorem byte_ksWrite {s : State} (h : s.KSBUF.wf = true) {n k : Nat} (hk : k < 64 * n) :
    (ksWrite s n).byte (0x400 + k) =
      lane (hashBlock (inputAt s (ctrAdd s.CTR (k / 64))))[Fin.ofNat 16 (k / 4)] (k % 4) := by
  have hword : k / 4 = 16 * (k / 64) + k / 4 % 16 := by omega
  rw [byte_eq_lane_word, ← word_ksWrite h n (k / 64) (by omega), Fin.val_ofNat, ← hword]

/-- Settles O29: the longer keystream has at least as many blocks, and the bytes of both are those of the same
hashes. -/
theorem keystreamPrefixLaw : Obligations.KeystreamPrefixLaw := by
  intro s1 s2 n1 hp1 hp2 hwf1 hwf2 hparams hkey hkeysz hnonce hctr _ _ hlen hn1
  obtain rfl := specBlocks_iff.1 hn1
  have hblocks : blockCount s1.KSLEN ≤ blockCount s2.KSLEN := Nat.div_le_div_right (by omega)
  refine ⟨_, _, exec_completes hp1, exec_completes hp2, fun k hk => ?_⟩
  calc (ksWrite s2 (blockCount s2.KSLEN)).byte (0x400 + k)
      = lane (hashBlock (inputAt s2 (ctrAdd s2.CTR (k / 64))))[Fin.ofNat 16 (k / 4)] (k % 4) :=
        byte_ksWrite hwf2 (by omega)
    _ = lane (hashBlock (inputAt s1 (ctrAdd s1.CTR (k / 64))))[Fin.ofNat 16 (k / 4)] (k % 4) := by
      rw [hctr, inputAt_congr hparams hkey hkeysz hnonce]
    _ = (ksWrite s1 (blockCount s1.KSLEN)).byte (0x400 + k) := (byte_ksWrite hwf1 hk).symm

/-- The inputs of one state at two counters are equal exactly when the counters are. -/
theorem inputAt_inj {s : State} {c c' : Counter} : inputAt s c = inputAt s c' ↔ c = c' :=
  xin_eq_iff.trans enc64_inj

/-- Settles O31: the inputs are at `C + b`, and those of the second KSGEN at `C + nb + b'`, exact sums, so that equal
inputs are of one block. -/
theorem successiveKsgensNeverRepeatAnInput : Obligations.SuccessiveKsgensNeverRepeatAnInput := by
  intro s t l b b' hp hs hexec ht hb
  obtain rfl : complete (ksgenEffect s) = t := Host.Outcome.next.inj ((exec_completes hp).symm.trans hexec)
  have hbn := toNat_ctrAdd_of_ksgenError hs hb.le
  refine ⟨fun hb' heq => ?_, fun hb' hne heq => hne ?_⟩
  · have hcounter := congrArg BitVec.toNat (inputAt_inj.1 heq)
    have hend := toNat_ctrAdd_of_ksgenError hs le_rfl
    have hbn' := toNat_ctrAdd_of_ksgenError ht hb'.le
    have hCTR : (complete (ksgenEffect s)).CTR = ctrAdd s.CTR (blockCount s.KSLEN) := rfl
    simp only [hCTR] at hcounter hbn'
    omega
  · have hcounter := congrArg BitVec.toNat (inputAt_inj.1 heq)
    have hbn' := toNat_ctrAdd_of_ksgenError hs hb'.le
    omega

/-! ### The expansion block and the keystream generator at their ports -/

/-- Byte `k` of a value on a port. -/
theorem getElem?_bytesOfValue {w n k : Nat} (v : BitVec w) (hk : k < n) :
    (bytesOfValue v n)[k]? = some (v.extractLsb' (8 * k) 8) := by
  induction n generalizing v k with
  | zero => omega
  | succ n ih =>
    cases k with
    | zero => rfl
    | succ k =>
      rw [bytesOfValue, List.getElem?_cons_succ, ih (v >>> 8) (by omega)]
      congr 1
      apply BitVec.eq_of_getLsbD_eq
      intro j hj
      simp only [BitVec.getLsbD_extractLsb', BitVec.getLsbD_ushiftRight, Nat.mul_succ, Nat.add_left_comm, Nat.add_comm]

@[simp] theorem length_bytesOfValue {w : Nat} (v : BitVec w) (n : Nat) : (bytesOfValue v n).length = n := by
  induction n generalizing v with
  | zero => rfl
  | succ n ih => rw [bytesOfValue, List.length_cons, ih]

/-- The bytes packed on a port are read back from it. -/
theorem bytesOfValue_valueOf {w n : Nat} {l : List Byte} (hn : l.length = n) (hw : 8 * n ≤ w) :
    bytesOfValue (valueOf w l) n = l := by
  subst hn
  apply List.ext_getElem (length_bytesOfValue _ _)
  intro k _ hk
  rw [List.getElem_eq_iff, getElem?_bytesOfValue _ hk, extractLsb'_valueOf (by decide) l hw,
    List.getD_eq_getElem _ _ hk]

theorem length_key0Bytes (s : State) : (key0Bytes s).length = 16 := rfl

theorem length_key1Bytes (s : State) : (key1Bytes s).length = 16 := rfl

theorem length_nonce16 (order : Config.FieldOrder) (nonce : Vector Word 2) (c : Counter) :
    (nonce16 order nonce c).length = 16 := by
  rw [nonce16, toList_nonce]
  cases order <;> rfl

/-- The hash of a packed state: the permutation and the feed-forward on the bus (R167). -/
theorem feedForward_packState (x : Block) :
    feedForward (salsa20HashPermutation (packState x)) (packState x) = packState (hashBlock x) := by
  rw [feedForward, salsa20HashPermutation_packState, unpackState_packState, unpackState_packState, hashBlock]

/-- The expansion block over a state's key and the field for a counter is the hash of the expansion input (R167). -/
theorem salsa20ExpansionBlock_eq (s : State) (c : Counter) :
    salsa20ExpansionBlock (valueOf 128 (key0Bytes s)) (valueOf 128 (key1Bytes s)) s.KEYSZ
      (valueOf 128 (nonce16 s.params.order s.NONCE c)) = packState (hashBlock (inputAt s c)) := by
  have hinput : valueOf 512 (expansionBytes (key0Bytes s) (key1Bytes s) s.KEYSZ (nonce16 s.params.order s.NONCE c)) =
      packState (inputAt s c) := by
    rw [← valueOf_bytesOf, inputAt, bytesOf_xin, key0Bytes, key1Bytes]
  rw [salsa20ExpansionBlock, bytesOfValue_valueOf (length_key0Bytes s) (by decide),
    bytesOfValue_valueOf (length_key1Bytes s) (by decide), bytesOfValue_valueOf (length_nonce16 ..) (by decide), hinput]
  exact feedForward_packState _

/-- The blocks `f b` stored for each index of a list, in its order. -/
def putBlocks (f : Nat → Block) (l : List Nat) (m : Memory) : Memory := l.foldl (fun m b => m.putBlock b (f b)) m

theorem putBlocks_cons (f : Nat → Block) (b : Nat) (l : List Nat) (m : Memory) :
    putBlocks f (b :: l) m = putBlocks f l (m.putBlock b (f b)) := rfl

/-- KSGEN stores its blocks in index order (R174). -/
theorem ksWrite_eq_putBlocks (s : State) (n : Nat) :
    ksWrite s n = putBlocks (fun b => hashBlock (inputAt s (ctrAdd s.CTR b))) (List.range n) s.KSBUF := by
  induction n with
  | zero => rfl
  | succ n ih =>
    rw [ksWrite, ih, putBlocks, putBlocks, List.range_succ, List.foldl_append, List.foldl_cons, List.foldl_nil]

/-- A byte of a stored block does not depend on what stood there. -/
theorem Memory.byte_putBlock_inside {m m' : Memory} (h : m.wf = true) (h' : m'.wf = true) (b : Nat) (x : Block)
    {a : Nat} (ha : 0x400 + 64 * b ≤ a ∧ a < 0x400 + 64 * (b + 1)) :
    (m.putBlock b x).byte a = (m'.putBlock b x).byte a := by
  obtain ⟨k, rfl⟩ := Nat.exists_eq_add_of_le (show 0x400 ≤ a by omega)
  have hword : k / 4 = 16 * b + (Fin.ofNat 16 (k / 4)).val := by
    simp only [Fin.val_ofNat]
    omega
  rw [byte_eq_lane_word, byte_eq_lane_word, hword, Memory.word_putBlock h, Memory.word_putBlock h']

/-- Two different blocks are stored in either order. -/
theorem Memory.putBlock_comm {m : Memory} (h : m.wf = true) {b b' : Nat} (hne : b ≠ b') (x y : Block) :
    (m.putBlock b x).putBlock b' y = (m.putBlock b' y).putBlock b x := by
  have hx := Memory.wf_putBlock h b x
  have hy := Memory.wf_putBlock h b' y
  refine Memory.ext_byte (Memory.wf_putBlock hx b' y) (Memory.wf_putBlock hy b x) fun a => ?_
  by_cases ha : 0x400 + 64 * b ≤ a ∧ a < 0x400 + 64 * (b + 1)
  · rw [Memory.byte_putBlock_outside hx b' y a (by omega), Memory.byte_putBlock_inside h hy b x ha]
  · rw [Memory.byte_putBlock_outside hy b x a (by omega)]
    by_cases ha' : 0x400 + 64 * b' ≤ a ∧ a < 0x400 + 64 * (b' + 1)
    · exact Memory.byte_putBlock_inside hx h b' y ha'
    · rw [Memory.byte_putBlock_outside hx b' y a (by omega), Memory.byte_putBlock_outside h b x a (by omega),
        Memory.byte_putBlock_outside h b' y a (by omega)]

/-- The order of the blocks does not matter (R175). -/
theorem putBlocks_perm (f : Nat → Block) {l l' : List Nat} (hl : l.Perm l') {m : Memory} (hm : m.wf = true) :
    putBlocks f l m = putBlocks f l' m := by
  induction hl generalizing m with
  | nil => rfl
  | cons b _ ih => exact ih (Memory.wf_putBlock hm b (f b))
  | swap b b' l =>
    by_cases hb : b' = b
    · rw [hb]
    · simp only [putBlocks_cons, Memory.putBlock_comm hm hb]
  | trans _ _ ih ih' => exact (ih hm).trans (ih' hm)

/-- Settles O60: each block at the ports is the hash of its expansion input, and `putBlocks_perm` puts the blocks in
index order. -/
theorem expansionAndKeystreamAtTheirPorts : Obligations.ExpansionAndKeystreamAtTheirPorts := by
  intro s
  refine ⟨fun hp => ⟨_, exec_completes hp, (salsa20ExpansionBlock_eq s s.CTR).symm⟩, fun hp hwf l hl =>
    ⟨_, exec_completes hp, ?_⟩⟩
  simp only [salsa20KeystreamBlock, salsa20ExpansionBlock_eq, unpackState_packState]
  exact (ksWrite_eq_putBlocks s _).trans (putBlocks_perm _ hl hwf).symm

end Sys2Proof.Machine
end

/-! ## The control commands

CLEAR at its completion (spec/44_control.md R192) is a reset of the data registers, and NOP is the handshake alone
(R190, R191). -/

section
namespace Sys2Proof.Machine

/-- The reset state of this implementation but for what CLEAR keeps, and DONE 1 (R192, R204). -/
def cleared (s : State) : State :=
  { State.resetOf s.params with
    KEYSZ := s.KEYSZ, DONEIE := s.DONEIE, ERRIE := s.ERRIE, DONE := true, ERR := s.ERR, rstN := s.rstN,
    rdata := s.rdata, host := s.host, turns := s.turns, draws := s.draws }

/-- The zeros CLEAR writes are those of R40: nothing of a data register or of KSBUF survives. -/
theorem complete_clearEffect (s : State) : complete (clearEffect s) = cleared s := rfl

theorem exec_clear_completes {s : State} (hp : s.PEND = some .clear) : exec .clear s = .next (cleared s) := by
  rw [exec_completes hp, effectOf, complete_clearEffect]

/-- A state that was cleared holds nothing more to clear: only the command in flight goes. -/
theorem cleared_of_cleared_pending (s : State) (p : Option Instr) :
    cleared { cleared s with PEND := p } = cleared s := rfl

/-- Settles O34: the completion answers `cleared s`, whose KSBUF lists no byte, and a second one answers it again. -/
theorem clearCompletes : Obligations.ClearCompletes := fun s hp =>
  ⟨exec_clear_completes hp, Memory.byte_nil,
    (exec_clear_completes rfl).trans (congrArg _ (cleared_of_cleared_pending s (some .clear)))⟩

/-- The handshake alone: acceptance by the idle machine and the end of a completion change DONE and ERR only (R202,
R204). -/
theorem complete_accept {i : Instr} {s : State} (hp : s.PEND = none) :
    complete (accept i s) = { s with DONE := true, ERR := .noError } := by
  simp only [complete, accept, hp]

/-- Settles O35: NOP has no check and no effect, so it is acceptance and the end of a completion. -/
theorem nopIsTheHandshakeAlone : Obligations.NopIsTheHandshakeAlone := by
  refine fun s => ⟨fun hp => exec_completes hp, fun hp => ⟨accept .nop s, exec_accepted hp rfl, rfl, ?_⟩⟩
  calc exec .nop (accept .nop s)
      = .next (complete (accept .nop s)) := exec_completes rfl
    _ = .next { s with DONE := true, ERR := .noError } := by rw [complete_accept hp]

end Sys2Proof.Machine
end

/-! ## The invariant

Every step keeps `GoodState` (spec/10_state.md R30, R36, spec/60_exceptions.md R204, R205): a state is good again where
an update leaves the operands and the command in flight, and acceptance, completion and reset are looked at one by
one. -/

section
namespace Sys2Proof.Machine

theorem pendOk_iff {s : State} :
    pendOk s = true ↔ ∀ i, s.PEND = some i → issueError i s = none ∧ s.DONE = false ∧ s.rstN = true := by
  rcases hp : s.PEND with _ | i
  · simp [pendOk, hp]
  · simp [pendOk, hp, and_assoc]

theorem pendOk_of_idle {s : State} (hp : s.PEND = none) : pendOk s = true := by
  simp [pendOk, hp]

theorem ksOk_congr {s t : State} (hparams : t.params = s.params) (hks : t.KSBUF = s.KSBUF) : ksOk t = ksOk s := by
  rw [ksOk, ksOk, hparams, hks]

/-- A command's own check reads the operands alone (R165, R171, R172). -/
theorem issueError_congr {s t : State} (h : operandsOf t = operandsOf s) (i : Instr) :
    issueError i t = issueError i s := by
  simp only [operandsOf, Prod.mk.injEq] at h
  obtain ⟨-, -, -, hctr, hlen, -, -, hparams⟩ := h
  cases i with
  | expand => rw [issueError, issueError, expandError, expandError, hctr, hparams]
  | ksgen => rw [issueError, issueError, ksgenError, ksgenError, hctr, hlen, hparams]
  | nop | wadd | wxor | wrotl | qr | colrnd | rowrnd | dblrnd | perm10 | hash | clear => rfl

/-- A state is good again after an update that leaves the operands, the command in flight and the pin, and sets no
DONE. -/
theorem goodState_of_undisturbed {s t : State} (h : GoodState s) (hu : Undisturbed s t) (hp : t.PEND = s.PEND)
    (hr : t.rstN = s.rstN) : GoodState t := by
  obtain ⟨hks, hpend⟩ := h
  obtain ⟨hops, hdone⟩ := hu
  constructor
  · have hops' := hops
    simp only [operandsOf, Prod.mk.injEq] at hops'
    obtain ⟨-, -, -, -, -, -, hbuf, hparams⟩ := hops'
    rwa [ksOk_congr hparams hbuf]
  · rw [pendOk_iff] at hpend ⊢
    intro i hi
    obtain ⟨herr, hd, hrst⟩ := hpend i (hp ▸ hi)
    exact ⟨(issueError_congr hops i).trans herr, hdone hd, hr.trans hrst⟩

/-- With nothing in flight a state is good again after an update that leaves KSBUF and the parameters. -/
theorem goodState_of_idle {s t : State} (h : GoodState s) (hparams : t.params = s.params) (hks : t.KSBUF = s.KSBUF)
    (hp : t.PEND = none) : GoodState t :=
  ⟨(ksOk_congr hparams hks).trans h.1, pendOk_of_idle hp⟩

theorem goodState_reject {s : State} (h : GoodState s) (e : ErrCode) : GoodState (reject e s) :=
  goodState_of_undisturbed h ⟨rfl, fun _ => rfl⟩ rfl rfl

/-- Acceptance comes after the command's own check, and clears DONE (R201, R202). -/
theorem goodState_accept {i : Instr} {s : State} (h : GoodState s) (hr : s.rstN = true)
    (herr : issueError i s = none) : GoodState (accept i s) := by
  refine ⟨h.1, pendOk_iff.2 fun j hj => ?_⟩
  obtain rfl := Option.some.inj hj
  exact ⟨(issueError_congr (s := s) (t := accept i s) rfl i).trans herr, rfl, hr⟩

/-- The command in flight passes its own check, so its effect stays within KSBUF (R172, R204). -/
theorem goodState_complete {i : Instr} {s : State} (h : GoodState s) (hp : s.PEND = some i) :
    GoodState (complete (effectOf i s)) := by
  obtain ⟨herr, -, -⟩ := pendOk_iff.1 h.2 i hp
  exact ⟨(ksOk_congr rfl rfl).trans (ksOk_effectOf h.1 herr), rfl⟩

/-- One step of a command out of reset: its rejection, its acceptance or its completion. -/
theorem goodState_exec {i : Instr} {s t : State} (h : exec i s = .next t) (hg : GoodState s) (hr : s.rstN = true) :
    GoodState t := by
  obtain ⟨-, e, -, rfl⟩ | ⟨-, herr, rfl⟩ | ⟨hp, rfl⟩ | ⟨j, -, -, rfl⟩ := exec_cases h
  · exact goodState_reject hg e
  · exact goodState_accept hg hr herr
  · exact goodState_complete hg hp
  · exact goodState_reject hg .busy

theorem goodState_cmdWrite {w : Word} {s t : State} (h : cmdWrite w s = .next t) (hg : GoodState s)
    (hr : s.rstN = true) : GoodState t := by
  obtain ⟨-, rfl⟩ | ⟨-, -, rfl⟩ | ⟨-, i, -, he⟩ := cmdWrite_cases h
  · exact goodState_reject hg .busy
  · exact goodState_reject hg .badcmd
  · exact goodState_exec he hg hr

@[simp] theorem writeReg_PEND (g : Reg) (v : Word) (s : State) : (writeReg g v s).PEND = s.PEND := by
  cases g <;> rfl

theorem goodState_busWrite {off : Nat} {v : Word} {s t : State} (h : busWrite off v s = .next t)
    (hg : GoodState s) : GoodState t := by
  obtain ⟨-, ⟨-, rfl⟩ | ⟨-, -, rfl⟩ | ⟨-, -, rfl⟩ | ⟨hr, -, hc⟩ | ⟨-, -, rfl⟩ | ⟨-, hb, rfl⟩⟩ := busWrite_cases h
  · exact hg
  · exact goodState_of_undisturbed hg (undisturbed_writeStatus v s) rfl rfl
  · exact goodState_of_undisturbed hg ⟨rfl, id⟩ rfl rfl
  · exact goodState_cmdWrite hc hg hr
  · exact goodState_of_undisturbed hg ⟨rfl, id⟩ rfl rfl
  · obtain ⟨hparams, -, -, hks⟩ := sameResults_writeReg (regAt s.params off) v s
    exact goodState_of_idle hg hparams hks ((writeReg_PEND _ v s).trans (busy_eq_false_iff.1 hb))

theorem goodState_busRead {off : Nat} {s t : State} (h : busRead off s = .next t) (hg : GoodState s) :
    GoodState t := by
  obtain ⟨-, ⟨-, rfl⟩ | ⟨-, -, -, rfl⟩ | ⟨-, -, rfl⟩⟩ := busRead_cases h
  · exact goodState_of_undisturbed hg ⟨rfl, id⟩ rfl rfl
  · exact goodState_of_undisturbed hg ⟨rfl, id⟩ rfl rfl
  · exact goodState_of_undisturbed hg ⟨rfl, id⟩ rfl rfl

theorem drivePin_released {s : State} (hr : s.rstN = false) : drivePin true s = resetInPlace s := by
  simp [drivePin, hr]

theorem drivePin_high {s : State} (hr : s.rstN = true) : drivePin true s = s := by
  simp [drivePin, hr]

/-- The pin driven low abandons the command in flight, and the release empties KSBUF (R230, R231; log entry 7). -/
theorem goodState_drivePin {s : State} (hg : GoodState s) (level : Bool) : GoodState (drivePin level s) := by
  cases level with
  | false => exact goodState_of_idle hg rfl rfl rfl
  | true =>
    rcases hr : s.rstN with _ | _
    · rw [drivePin_released hr]
      exact goodState_of_empty rfl rfl
    · rw [drivePin_high hr]
      exact hg

theorem goodState_hostMove {m : HostMove} {s t : State} (h : hostMove m s = .next t) (hg : GoodState s) :
    GoodState t := by
  cases m with
  | write off v => exact goodState_busWrite h hg
  | read off => exact goodState_busRead h hg
  | rst level =>
    obtain rfl := Host.Outcome.next.inj h
    exact goodState_drivePin hg level

theorem goodState_popTurn {s : State} (h : GoodState s) : GoodState (popTurn s) :=
  goodState_of_undisturbed h ⟨rfl, id⟩ rfl rfl

theorem goodState_popHost {s : State} (h : GoodState s) : GoodState (popHost s) :=
  goodState_of_undisturbed h ⟨rfl, id⟩ rfl rfl

/-- Settles O53: an idle turn, the completion of the command in flight, or a move of the host. -/
theorem everyStepKeepsInv : Obligations.EveryStepKeepsInv := by
  intro s t hg h
  have hpop := goodState_popTurn hg
  obtain ⟨-, -, rfl⟩ | ⟨-, -, i, hi, rfl⟩ | ⟨-, -, rfl⟩ | ⟨-, m, rest, -, hm⟩ := step_cases h
  · exact hpop
  · exact goodState_complete hpop hi
  · exact hpop
  · exact goodState_hostMove hm (goodState_popHost hpop)

end Sys2Proof.Machine
end

/-! ## Acceptance and rejection

A CMD write is decided by `check(w)` (spec/60_exceptions.md R201), here computed as the machine does, by decoding and
the command's own check: the write is the rejection with its verdict (R203), or the acceptance (R202). -/

section
namespace Sys2Proof.Machine

/-- The verdict of R201 on a CMD write of `w`; `noError` is acceptance. -/
def checkOf (w : Word) (s : State) : ErrCode :=
  match s.PEND with
  | some _ => .busy
  | none =>
    match decode w with
    | .badcmd _ => .badcmd
    | .command i => (issueError i s).getD .noError

theorem checkOf_busy {w : Word} {s : State} {i : Instr} (hp : s.PEND = some i) : checkOf w s = .busy := by
  simp only [checkOf, hp]

theorem checkOf_badcmd {w : Word} {s : State} {why : BadCmd} (hp : s.PEND = none) (hd : decode w = .badcmd why) :
    checkOf w s = .badcmd := by
  simp only [checkOf, hp, hd]

theorem checkOf_command {w : Word} {s : State} {i : Instr} (hp : s.PEND = none) (hd : decode w = .command i) :
    checkOf w s = (issueError i s).getD .noError := by
  simp only [checkOf, hp, hd]

theorem cmdWrite_busy {s : State} {w : Word} {i : Instr} (hp : s.PEND = some i) :
    cmdWrite w s = .next (reject .busy s) := by
  simp [cmdWrite, busy, hp]

/-- Only EXPAND and KSGEN have a check of their own (R201). -/
theorem issueError_eq_none {i : Instr} (h1 : i ≠ .expand) (h2 : i ≠ .ksgen) (s : State) : issueError i s = none := by
  cases i with
  | expand => exact absurd rfl h1
  | ksgen => exact absurd rfl h2
  | nop | wadd | wxor | wrotl | qr | colrnd | rowrnd | dblrnd | perm10 | hash | clear => rfl

/-- A command's own check never fails with the code that stands for no error (R200). -/
theorem issueError_ne_noError (i : Instr) (s : State) : issueError i s ≠ some .noError := by
  cases i with
  | expand =>
    rw [issueError, expandError]
    split <;> simp
  | ksgen =>
    rw [issueError, ksgenError]
    split
    · simp
    · split <;> simp
  | nop | wadd | wxor | wrotl | qr | colrnd | rowrnd | dblrnd | perm10 | hash | clear => simp [issueError]

/-- A CMD write with a verdict of an error is the rejection with it (R203). -/
theorem cmdWrite_of_check_error {w : Word} {s : State} (h : checkOf w s ≠ .noError) :
    cmdWrite w s = .next (reject (checkOf w s) s) := by
  rcases hp : s.PEND with _ | j
  · rcases hd : decode w with i | why
    · rw [checkOf_command hp hd] at h ⊢
      rcases herr : issueError i s with _ | e
      · exact absurd (by rw [herr]; rfl) h
      · rw [cmdWrite_command hp hd, exec_rejected hp herr, Option.getD_some]
    · rw [cmdWrite_badcmd hp hd, checkOf_badcmd hp hd]
  · rw [cmdWrite_busy hp, checkOf_busy hp]

/-- A CMD write with no error is the acceptance of the decoded command (R202). -/
theorem cmdWrite_of_check_accept {w : Word} {s : State} (h : checkOf w s = .noError) :
    ∃ i, decode w = .command i ∧ cmdWrite w s = .next (accept i s) := by
  rcases hp : s.PEND with _ | j
  · rcases hd : decode w with i | why
    · rw [checkOf_command hp hd] at h
      rcases herr : issueError i s with _ | e
      · exact ⟨i, rfl, (cmdWrite_command hp hd).trans (exec_accepted hp herr)⟩
      · rw [herr, Option.getD_some] at h
        exact absurd (h ▸ herr) (issueError_ne_noError i s)
    · rw [checkOf_badcmd hp hd] at h
      cases h
  · rw [checkOf_busy hp] at h
    cases h

theorem opcode_eq_expand_iff {i : Instr} : (opcode i).toNat = 0xA ↔ i = .expand := by
  cases i <;> simp [opcode]

theorem opcode_eq_ksgen_iff {i : Instr} : (opcode i).toNat = 0xB ↔ i = .ksgen := by
  cases i <;> simp [opcode]

theorem specBadCmd_iff {w : Word} : specBadCmd w ↔ ∃ why, decode w = .badcmd why := by
  rw [decode_badcmd_iff, exists_decode_command_iff, not_not]

/-- The clauses of `specCheck` for an EXPAND by the idle machine are its counter check (R165). -/
theorem specCheck_expand {w : Word} {s : State} (hp : s.PEND = none) (hbad : ¬ specBadCmd w)
    (hop : w.toNat % 16 = 0xA) (nb : Nat) (e : ErrCode) :
    specCheck w s nb e ↔ e = (expandError s).getD .noError := by
  by_cases hctr : s.CTR.toNat > ctrMaxVal s.params.ctrMax
  · rw [expandError_of_gt hctr]
    cases e <;> simp [specCheck, hp, hbad, hop, hctr]
  · have hle := Nat.not_lt.1 hctr
    rw [expandError_of_le hle]
    cases e <;> simp [specCheck, hp, hbad, hop, hle]

/-- The clauses of `specCheck` for a KSGEN by the idle machine are its counter check, then its length check (R171,
R172). -/
theorem specCheck_ksgen {w : Word} {s : State} (hp : s.PEND = none) (hbad : ¬ specBadCmd w)
    (hop : w.toNat % 16 = 0xB) (e : ErrCode) :
    specCheck w s (blockCount s.KSLEN) e ↔ e = (ksgenError s).getD .noError := by
  by_cases hctr : s.CTR.toNat + blockCount s.KSLEN > ctrMaxVal s.params.ctrMax
  · rw [ksgenError_ctr hctr]
    cases e <;> simp [specCheck, hp, hbad, hop, hctr]
  have hle := Nat.not_lt.1 hctr
  by_cases hlen : blockCount s.KSLEN > ksBlocks s.params
  · rw [ksgenError_len hle hlen]
    cases e <;> simp [specCheck, hp, hbad, hop, hle, hlen]
  · have hfits := Nat.not_lt.1 hlen
    rw [ksgenError_eq_none_iff.2 ⟨hle, hfits⟩]
    cases e <;> simp [specCheck, hp, hbad, hop, hle, hfits]

/-- The clauses of `specCheck` for a word that the idle machine decodes to `i` are the command's own check. -/
theorem specCheck_command {w : Word} {s : State} {i : Instr} (hp : s.PEND = none) (hd : decode w = .command i)
    (e : ErrCode) : specCheck w s (blockCount s.KSLEN) e ↔ e = (issueError i s).getD .noError := by
  have hbad : ¬ specBadCmd w := exists_decode_command_iff.1 ⟨i, hd⟩
  have hop : w.toNat % 16 = (opcode i).toNat := by
    obtain ⟨hop, -, -⟩ := fields_of_decode hd
    rw [← hop, opField_toNat]
  by_cases h1 : i = .expand
  · subst h1
    exact specCheck_expand hp hbad hop _ e
  by_cases h2 : i = .ksgen
  · subst h2
    exact specCheck_ksgen hp hbad hop e
  · have hA : w.toNat % 16 ≠ 0xA := hop ▸ mt opcode_eq_expand_iff.1 h1
    have hB : w.toNat % 16 ≠ 0xB := hop ▸ mt opcode_eq_ksgen_iff.1 h2
    rw [issueError_eq_none h1 h2]
    cases e <;> simp [specCheck, hp, hbad, hA, hB]

/-- The check over numbers holds of one code, the verdict of the machine. -/
theorem specCheck_iff (w : Word) (s : State) (e : ErrCode) :
    specCheck w s (blockCount s.KSLEN) e ↔ e = checkOf w s := by
  rcases hp : s.PEND with _ | j
  · rcases hd : decode w with i | why
    · rw [checkOf_command hp hd]
      exact specCheck_command hp hd e
    · have hbad : specBadCmd w := specBadCmd_iff.2 ⟨why, hd⟩
      rw [checkOf_badcmd hp hd]
      cases e <;> simp [specCheck, hp, hbad]
  · rw [checkOf_busy hp]
    cases e <;> simp [specCheck, hp]

/-- Settles O8: the one verdict is `checkOf w s`, and the write is the rejection or the acceptance it asks for. -/
theorem cmdWriteFollowsCheck : Obligations.CmdWriteFollowsCheck := by
  intro w s nb hr hnb
  obtain rfl := specBlocks_iff.1 hnb
  simp only [specCheck_iff, busWrite_cmd hr]
  refine ⟨⟨checkOf w s, rfl, fun _ => id⟩, fun e hne he => ?_, fun he => ?_⟩
  · subst he
    exact cmdWrite_of_check_error hne
  · obtain ⟨i, hd, hw⟩ := cmdWrite_of_check_accept he.symm
    obtain ⟨hop, himm, -⟩ := fields_of_decode hd
    refine ⟨i, ?_, ?_, hw⟩
    · rw [← hop, opField_toNat]
    · rw [← himm, imm5Field_toNat]

/-- Settles O9: a command without a check of its own is accepted, and any command is rejected while another is in
flight. -/
theorem issueIsAcceptedOrRejected : Obligations.IssueIsAcceptedOrRejected := fun _ s =>
  ⟨fun hp h1 h2 => exec_accepted hp (issueError_eq_none h1 h2 s), fun _ hp hij => exec_busy hp hij⟩

end Sys2Proof.Machine
end

/-! ## Completion

The engine's step is the command in flight (spec/60_exceptions.md R204), and the command is completed after at most the
turns held, with the operands of its acceptance: each turn of the host that is no move of the pin leaves the command in
flight and its operands (spec/40_word_ops.md R106, spec/70_reset_and_hazards.md R240). -/

section
namespace Sys2Proof.Machine

/-- Settles O5: the engine's turn with a command in flight. -/
theorem engineStepRunsPendingCommand : Obligations.EngineStepRunsPendingCommand := fun s _ hm hr hp =>
  (step_engine hm).trans (engineStep_some (s := popTurn s) hp hr)

/-- While a command is in flight no access of the host touches PEND or the turns. -/
theorem hostMove_leaves_pending {m : HostMove} {s t : State} (h : hostMove m s = .next t) (hp : s.PEND ≠ none)
    (hm : ∀ level, m ≠ .rst level) : t.PEND = s.PEND ∧ t.turns = s.turns := by
  cases m with
  | write off v =>
    obtain ⟨-, ⟨-, rfl⟩ | ⟨-, -, rfl⟩ | ⟨-, -, rfl⟩ | ⟨-, -, hc⟩ | ⟨-, -, rfl⟩ | ⟨-, hb, -⟩⟩ := busWrite_cases h
    · exact ⟨rfl, rfl⟩
    · exact ⟨rfl, rfl⟩
    · exact ⟨rfl, rfl⟩
    · obtain ⟨e, rfl⟩ | ⟨hidle, -⟩ := cmdWrite_rejects_or_accepts hc
      · exact ⟨rfl, rfl⟩
      · exact absurd hidle hp
    · exact ⟨rfl, rfl⟩
    · exact absurd (busy_eq_false_iff.1 hb) hp
  | read off =>
    obtain ⟨-, ⟨-, rfl⟩ | ⟨-, -, -, rfl⟩ | ⟨-, -, rfl⟩⟩ := busRead_cases h
    · exact ⟨rfl, rfl⟩
    · exact ⟨rfl, rfl⟩
    · exact ⟨rfl, rfl⟩
  | rst level => exact absurd rfl (hm level)

theorem ne_rst_of_noReset {s : State} {m : HostMove} {rest : List HostMove} (h : noReset s = true)
    (hh : s.host = m :: rest) (level : Bool) : m ≠ .rst level := by
  rintro rfl
  simp [noReset, hh] at h

/-- The coming moves after a step are moves that were coming before it. -/
theorem noReset_step {s t : State} (h : step s = .next t) (hn : noReset s = true) : noReset t = true := by
  rw [noReset, List.all_eq_true] at hn ⊢
  obtain hs | hs := step_host_suffix h
  · exact fun m hm => hn m (hs ▸ hm)
  · exact fun m hm => hn m (List.mem_of_mem_tail (hs ▸ hm))

/-- A good state with `i` in flight whose coming moves are accesses of the port, none of them of the pin. -/
structure Awaiting (i : Instr) (s : State) : Prop where
  good : GoodState s
  accesses : hostOk s = true
  pinHeld : noReset s = true
  pending : s.PEND = some i

theorem Awaiting.rstN {i : Instr} {s : State} (h : Awaiting i s) : s.rstN = true := by
  obtain ⟨-, -, hr⟩ := pendOk_iff.1 h.good.2 i h.pending
  exact hr

/-- A turn of the host leaves PEND, whether or not it has a move left, and is used up. -/
theorem Awaiting.step_leaves_pending {i : Instr} {s t : State} (h : Awaiting i s) (hm : mover s = .host)
    (ht : step s = .next t) : t.PEND = some i ∧ t.turns = s.turns.tail := by
  rcases hh : s.host with _ | ⟨m, rest⟩
  · rw [step_host_nil hm hh] at ht
    cases ht
    exact ⟨h.pending, rfl⟩
  · rw [step_host hm hh] at ht
    have hp : (popHost (popTurn s)).PEND ≠ none := by simp [h.pending]
    obtain ⟨hpend, hturns⟩ := hostMove_leaves_pending ht hp (ne_rst_of_noReset h.pinHeld hh)
    exact ⟨hpend.trans h.pending, hturns⟩

/-- A turn of the host leaves a state that still awaits the completion, with the same operands. -/
theorem Awaiting.host_turn {i : Instr} {s : State} (h : Awaiting i s) (hm : mover s = .host) :
    ∃ t, step s = .next t ∧ Awaiting i t ∧ operandsOf t = operandsOf s ∧ t.turns = s.turns.tail := by
  obtain ⟨t, ht⟩ := step_next_of_hostOk h.accesses
  obtain ⟨hp, hturns⟩ := h.step_leaves_pending hm ht
  obtain ⟨hops, -⟩ := step_undisturbed ht h.rstN (by simp [h.pending]) (by simp [hp])
  exact ⟨t, ht, ⟨everyStepKeepsInv s t h.good ht, hostOk_step ht h.accesses, noReset_step ht h.pinHeld, hp⟩, hops,
    hturns⟩

theorem mover_of_turns_cons {s : State} {a : Agent} {rest : List Agent} (h : s.turns = a :: rest) : mover s = a := by
  simp only [mover, h]

/-- With no turn held the engine moves first (R204; log entry 2). -/
theorem mover_of_turns_nil {s : State} (h : s.turns = []) (hp : s.PEND ≠ none) (hr : s.rstN = true) :
    mover s = .engine := by
  have hb : busy s = true := Option.isSome_iff_ne_none.2 hp
  simp [mover, h, hb, hr]

theorem run_succ {s t : State} (h : step s = .next t) (k : Nat) :
    Host.Core.run Sys2Proof.core (k + 1) s = Host.Core.run Sys2Proof.core k t := by
  have h' : Sys2Proof.core.step s = .next t := h
  simp only [Host.Core.run, h']

/-- The engine's turn comes after at most the turns held, the command still in flight with its operands. -/
theorem Awaiting.reaches_engine {i : Instr} {turns : List Agent} {s : State} (h : Awaiting i s)
    (hturns : s.turns = turns) :
    ∃ k u, k ≤ turns.length ∧ Host.Core.run Sys2Proof.core k s = .next u ∧ Awaiting i u ∧
      operandsOf u = operandsOf s ∧ mover u = .engine := by
  induction turns generalizing s with
  | nil => exact ⟨0, s, le_rfl, rfl, h, rfl, mover_of_turns_nil hturns (by simp [h.pending]) h.rstN⟩
  | cons a rest ih =>
    cases a with
    | engine => exact ⟨0, s, Nat.zero_le _, rfl, h, rfl, mover_of_turns_cons hturns⟩
    | host =>
      obtain ⟨t, ht, hawait, hops, hrest⟩ := h.host_turn (mover_of_turns_cons hturns)
      obtain ⟨k, u, hk, hrun, hu, hopsu, hmover⟩ := ih hawait (by rw [hrest, hturns, List.tail_cons])
      exact ⟨k + 1, u, Nat.succ_le_succ hk, (run_succ ht k).trans hrun, hu, hopsu.trans hops, hmover⟩

/-- Settles O10: `reaches_engine`, and the engine's step is then the completion, whose effect leaves ERR. -/
theorem pendingCommandCompletes : Obligations.PendingCommandCompletes := by
  intro s i hg hok hn hp
  have h : Awaiting i s := ⟨hg, hok, hn, hp⟩
  obtain ⟨k, u, hk, hrun, hu, hops, hm⟩ := h.reaches_engine rfl
  have hstep := engineStepRunsPendingCommand u i hm hu.rstN hu.pending
  obtain ⟨-, -, -, -, -, herr, -⟩ := effectOf_frame i (popTurn u)
  exact ⟨k, u, _, hk, hrun, hu.pending, hops, hm, hstep, hstep.trans (exec_completes (s := popTurn u) hu.pending), rfl,
    rfl, herr⟩

end Sys2Proof.Machine
end

/-! ## The recorded error

A recorded error goes only by a STATUS write with ERRC, an acceptance or the release of reset (spec/60_exceptions.md
R203, R208): a rejection or a dropped write finds it recorded, and a completion leaves it. -/

section
namespace Sys2Proof.Machine

/-- The first error is kept (R203, R240). -/
theorem recordErr_ERR_of_recorded {s : State} (h : s.ERR ≠ .noError) (e : ErrCode) : (recordErr e s).ERR = s.ERR :=
  if_neg h

theorem reject_ERR_of_recorded {s : State} (h : s.ERR ≠ .noError) (e : ErrCode) : (reject e s).ERR = s.ERR :=
  if_neg h

@[simp] theorem writeReg_ERR (g : Reg) (v : Word) (s : State) : (writeReg g v s).ERR = s.ERR := by
  cases g <;> rfl

/-- A move of the host that takes a recorded error from the state `s` to the state `t`. -/
inductive ClearsError (s t : State) : HostMove → Prop
  | errc {v : Word} (hbit : v.getLsbD 3 = true) : ClearsError s t (.write 0x008 v)
  | accepted {w : Word} {i : Instr} (hidle : s.PEND = none) (hd : decode w = .command i) (hp : t.PEND = some i) :
      ClearsError s t (.write 0x004 w)
  | released (hr : s.rstN = false) : ClearsError s t (.rst true)

/-- What a bus write can do to a recorded error: keep it, or clear it as STATUS or CMD. -/
theorem busWrite_recordedError {off : Nat} {v : Word} {s t : State} (h : busWrite off v s = .next t)
    (he : s.ERR ≠ .noError) : t.ERR = s.ERR ∨ (t.ERR = .noError ∧ ClearsError s t (.write off v)) := by
  obtain ⟨-, ⟨-, rfl⟩ | ⟨-, hg, rfl⟩ | ⟨-, -, rfl⟩ | ⟨-, hg, hc⟩ | ⟨-, -, rfl⟩ | ⟨-, -, rfl⟩⟩ := busWrite_cases h
  · exact .inl rfl
  · obtain rfl := off_of_status hg
    by_cases hv : v.getLsbD 3 = true
    · exact .inr ⟨if_pos hv, .errc hv⟩
    · exact .inl (if_neg hv)
  · exact .inl rfl
  · obtain rfl := off_of_cmd hg
    obtain ⟨e, rfl⟩ | ⟨hidle, i, hd, rfl⟩ := cmdWrite_rejects_or_accepts hc
    · exact .inl (reject_ERR_of_recorded he e)
    · exact .inr ⟨rfl, .accepted hidle hd rfl⟩
  · exact .inl (recordErr_ERR_of_recorded he .busy)
  · exact .inl (writeReg_ERR _ v s)

theorem busRead_ERR {off : Nat} {s t : State} (h : busRead off s = .next t) : t.ERR = s.ERR := by
  obtain ⟨-, ⟨-, rfl⟩ | ⟨-, -, -, rfl⟩ | ⟨-, -, rfl⟩⟩ := busRead_cases h
  · rfl
  · rfl
  · rfl

/-- The pin keeps ERR until its release (R230; log entry 7). -/
theorem drivePin_recordedError (level : Bool) (s : State) :
    (drivePin level s).ERR = s.ERR ∨
      ((drivePin level s).ERR = .noError ∧ ClearsError s (drivePin level s) (.rst level)) := by
  cases level with
  | false => exact .inl rfl
  | true =>
    rcases hr : s.rstN with _ | _
    · rw [drivePin_released hr]
      exact .inr ⟨rfl, .released hr⟩
    · rw [drivePin_high hr]
      exact .inl rfl

theorem hostMove_recordedError {m : HostMove} {s t : State} (h : hostMove m s = .next t) (he : s.ERR ≠ .noError) :
    t.ERR = s.ERR ∨ (t.ERR = .noError ∧ ClearsError s t m) := by
  cases m with
  | write off v => exact busWrite_recordedError h he
  | read off => exact .inl (busRead_ERR h)
  | rst level =>
    obtain rfl := Host.Outcome.next.inj h
    exact drivePin_recordedError level s

/-- Settles O57: a turn without a move and a completion leave ERR, and a move of the host clears it in one of the three
ways of `ClearsError`. -/
theorem firstErrorIsKept : Obligations.FirstErrorIsKept := by
  intro s t h he hne
  obtain ⟨-, -, rfl⟩ | ⟨-, -, i, -, rfl⟩ | ⟨-, -, rfl⟩ | ⟨hm, m, rest, hh, ht⟩ := step_cases h
  · exact absurd rfl hne
  · obtain ⟨-, -, -, -, -, herr, -⟩ := effectOf_frame i (popTurn s)
    exact absurd herr hne
  · exact absurd rfl hne
  · obtain hkept | ⟨hclear, hway⟩ := hostMove_recordedError ht he
    · exact absurd hkept hne
    refine ⟨hclear, hm, ?_⟩
    cases hway with
    | errc hbit => exact .inl ⟨_, rest, hh, hbit⟩
    | accepted hidle hd hp => exact .inr (.inl ⟨_, rest, _, hh, hidle, hp, hd⟩)
    | released hr => exact .inr (.inr ⟨rest, hh, hr⟩)

end Sys2Proof.Machine
end

/-! ## Accesses while a command is in flight

Every write but those of STATUS and IE is dropped and records BUSY, a read of a volatile register is a free draw and
every other read is exact (spec/70_reset_and_hazards.md R240, R241). -/

section
namespace Sys2Proof.Machine

/-- A write of CMD while a command is in flight is the rejection with BUSY (R201, R240). -/
theorem busWrite_cmd_busy {s : State} (hr : s.rstN = true) (hp : s.PEND ≠ none) (w : Word) :
    busWrite 0x004 w s = .next (reject .busy s) := by
  obtain ⟨i, hi⟩ := Option.ne_none_iff_exists'.1 hp
  rw [busWrite_cmd hr, cmdWrite_busy hi]

/-- A write at any offset but CMD, STATUS and IE while a command is in flight is dropped (R240). -/
theorem busWrite_dropped {s : State} {off : Nat} (ho : offsetOk off = true) (hr : s.rstN = true) (hp : s.PEND ≠ none)
    (hc : off ≠ 0x004) (hs : off ≠ 0x008) (hi : off ≠ 0x010) (v : Word) :
    busWrite off v s = .next (recordErr .busy s) :=
  busWrite_busy ho hr hp rfl (mt off_of_cmd hc) (mt off_of_status hs) (mt off_of_ie hi) v

/-- The registers at the volatile offsets are the volatile ones (R61, R241). -/
theorem volatileReg_regAt {p : Config.Params} {off : Nat} (ho : offsetOk off = true) (h : volatileOff p off = true) :
    volatileReg (regAt p off) = true := by
  obtain ⟨h4, -⟩ := offsetOk_iff.1 ho
  simp only [volatileOff, Bool.or_eq_true, Bool.and_eq_true, beq_iff_eq, decide_eq_true_eq] at h
  obtain (((((rfl | ⟨hlo, hhi⟩) | ⟨hlo, hhi⟩) | ⟨hlo, hhi⟩) | ⟨hlo, hhi⟩) | ⟨hlo, hhi⟩) | hks := h
  · rfl
  · obtain ⟨i, rfl⟩ := exists_fin_of_run (n := 3) h4 rfl hlo (by omega)
    fin_cases i <;> rfl
  · obtain ⟨i, rfl⟩ := exists_fin_of_run (n := 4) h4 rfl hlo (by omega)
    rw [regAt_q, volatileReg]
  · obtain ⟨i, rfl⟩ := exists_fin_of_run (n := 16) h4 rfl hlo (by omega)
    rw [regAt_s, volatileReg]
  · obtain ⟨i, rfl⟩ := exists_fin_of_run (n := 16) h4 rfl hlo (by omega)
    rw [regAt_out, volatileReg]
  · obtain ⟨i, rfl⟩ := exists_fin_of_run (n := 4) h4 rfl hlo (by omega)
    fin_cases i <;> rfl
  · rw [regAt_high (by omega), if_pos hks, volatileReg]

/-- A read of a volatile register while a command is in flight is the next free draw (R241; log entry 5). -/
theorem busRead_volatile {s : State} {off : Nat} (ho : offsetOk off = true) (hr : s.rstN = true) (hp : s.PEND ≠ none)
    (h : volatileReg (regAt s.params off) = true) :
    busRead off s = .next { s with rdata := Config.freeRead s.draws, draws := s.draws + 1 } := by
  have hb : busy s = true := Option.isSome_iff_ne_none.2 hp
  simp [busRead, ho, hr, hb, h]

/-- Settles O36: the offsets split into CMD, STATUS, IE and the others, with one write rule for each. -/
theorem writesWhileBusy : Obligations.WritesWhileBusy := by
  intro s off v ho hr hp
  refine ⟨rfl, fun hs hi => ?_, ?_, ?_⟩
  · by_cases hc : off = 0x004
    · subst hc
      exact busWrite_cmd_busy hr hp v
    · rw [busWrite_dropped ho hr hp hc hs hi, if_neg hc, recordErr]
  · rintro rfl
    exact busWrite_status hr v
  · rintro rfl
    exact busWrite_ie hr v

/-- Settles O37: an offset that is neither volatile nor one of the five named registers is CMD, KEY or reserved, which
read 0. -/
theorem readsWhileBusy : Obligations.ReadsWhileBusy := by
  intro s off ho hr hp
  refine ⟨fun h => busRead_volatile ho hr hp (volatileReg_regAt ho h), fun h => ?_⟩
  split_ifs with hid hhw hst hie hcfg
  · exact hid ▸ readsAs_of_exact rfl hr (regAt_id _) (.inr rfl)
  · exact hhw ▸ readsAs_of_exact rfl hr (regAt_hwcfg _) (.inr rfl)
  · exact hst ▸ readsAs_of_exact rfl hr (regAt_status _) (.inr rfl)
  · rw [hie, ← readReg_ie_setWidth]
    exact readsAs_of_exact rfl hr (regAt_ie _) (.inr rfl)
  · rw [hcfg, ← readReg_cfg_setWidth]
    exact readsAs_of_exact rfl hr (regAt_cfg _) (.inr rfl)
  · refine readsAs_zero ho hr ?_
    obtain ⟨h4, hlt⟩ := offsetOk_iff.1 ho
    rw [← Bool.not_eq_true] at h
    simp only [volatileOff, reservedOff, Bool.or_eq_true, Bool.and_eq_true, beq_iff_eq, decide_eq_true_eq] at h ⊢
    omega

end Sys2Proof.Machine
end

/-! ## The reset pin

In reset the port neither writes nor reads a register, and the release gives the reset state
(spec/70_reset_and_hazards.md R230, R231; log entry 7). -/

section
namespace Sys2Proof.Machine

theorem busWrite_in_reset {s : State} {off : Nat} (ho : offsetOk off = true) (hr : s.rstN = false) (v : Word) :
    busWrite off v s = .next s := by
  simp [busWrite, ho, hr]

theorem readsAs_zero_in_reset {s : State} {off : Nat} (ho : offsetOk off = true) (hr : s.rstN = false) :
    readsAs s off 0 := by
  simp [readsAs, busRead, ho, hr]

theorem irq_in_reset {s : State} (hr : s.rstN = false) : irq s = false := by
  simp [irq, hr]

theorem hostMove_release {s : State} (hr : s.rstN = false) : hostMove (.rst true) s = .next (resetInPlace s) := by
  rw [hostMove, drivePin_released hr]

/-- Settles O49: one rule each for the write, the read, the interrupt and the release in reset. -/
theorem resetPin : Obligations.ResetPin := fun _ hr =>
  ⟨fun _ v ho => ⟨busWrite_in_reset ho hr v, readsAs_zero_in_reset ho hr⟩, irq_in_reset hr, hostMove_release hr⟩

/-- Settles O50: with the pin low nothing is in flight, so the engine is idle, and the release overwrites whatever the
registers held. -/
theorem resetAbandonsTheCommand : Obligations.ResetAbandonsTheCommand := by
  intro s _
  refine ⟨drivePin false s, rfl, rfl, engineStep_idle (.inl rfl), irq_in_reset rfl, _, hostMove_release rfl, ?_⟩
  exact ⟨rfl, rfl, rfl⟩

end Sys2Proof.Machine
end
